-- ==== Sys2Proof/Word.lean ====
section
/-! DEFINITION. The widths the spec gives its values: 16-bit registers and operands, bytes, the 24-bit command word
and the 20-bit response word (00_scope.md section 7, 30_encoding.md R47, R51). -/

namespace Sys2Proof

/-- A `u16`: the CRC register, an angle, a 16-bit operand, response data. -/
abbrev Word := BitVec 16

/-- A `u8`: a message byte, a frame byte, an opcode. -/
abbrev Byte := BitVec 8

/-- A command word `cmd[23:0]` (30_encoding.md R47). -/
abbrev CmdWord := BitVec 24

/-- A response word `rsp[19:0]` (30_encoding.md R51). -/
abbrev RspWord := BitVec 20

end Sys2Proof
end

