-- ==== Sys2Proof/Syntax.lean ====
section
/-! DEFINITION. The ten commands (30_encoding.md R49), why a command word can be illegal (R50), and the assembler's
source lines with the three pseudo-instructions (R52, R53). -/

namespace Sys2Proof

/-- The commands of the block, one constructor per row of spec/opcode_table.json. Operands have the width their
format gives them (30_encoding.md R48), so a wider operand cannot be written. -/
inductive Instr where
  /-- `CRC.INIT` (R64) -/
  | crcInit
  /-- `CRC.UPDATE b` (R65) -/
  | crcUpdate (b : Byte)
  /-- `CRC.READ` (R66) -/
  | crcRead
  /-- `ANG.CLEAR` (R76) -/
  | angClear
  /-- `ANG.PUSH v` (R77) -/
  | angPush (v : Word)
  /-- `ENC.ENCODE` (R82) -/
  | encEncode
  /-- `FB.READ i` (R83) -/
  | fbRead (i : Byte)
  /-- `ST.READ` (R90) -/
  | stRead
  /-- `CTL.READ` (R91) -/
  | ctlRead
  /-- `CTL.WRITE e` (R92) -/
  | ctlWrite (e : Bool)
deriving DecidableEq, Repr

/-- Why a command word is illegal: the two cases of 30_encoding.md R50. The response tells only `op` (R102); the
distinction is the model's name for the case (log 13). -/
inductive DecodeError where
  /-- An opcode other than the ten listed. -/
  | unknownOpcode (op : Byte)
  /-- A listed opcode whose must-be-zero argument bits are not all zero. -/
  | mustBeZero (op : Byte)
deriving DecidableEq, Repr

/-- What may stand first on an assembler line: a command's mnemonic (30_encoding.md R49, R52) or a
pseudo-instruction's (R53). -/
inductive Mnemonic where
  | crcInit | crcUpdate | crcRead | angClear | angPush | encEncode | fbRead | stRead | ctlRead | ctlWrite
  | crcCompute | encFrame | fbDump
deriving DecidableEq, Repr

/-- One assembler line: a mnemonic and its operands as the numbers written, of any size (30_encoding.md R52, R53). -/
structure SourceLine where
  mnemonic : Mnemonic
  operands : List Nat
deriving DecidableEq, Repr

/-- Why the assembler refuses a line. -/
inductive AsmError where
  /-- The first word of the line is no mnemonic. -/
  | unknownMnemonic
  /-- An operand is not an unsigned decimal or `0x` hexadecimal number. -/
  | badNumber
  /-- The operands do not fit the format: too many, too few, or a value too large (R52: "never truncates it"). -/
  | operandDoesNotFit
deriving DecidableEq, Repr

end Sys2Proof
end

