-- ==== Sys2Proof/WellFormed.lean ====
section
/-! DEFINITION. Well-formedness: of a command (its operand is one its format encodes, 30_encoding.md R48) and of an
assembler line (its operands fit the format, R52, R53). -/

namespace Sys2Proof

/-- The operand is one the command's format can hold (30_encoding.md R48). Operands are typed by their width, so
every command passes: `Instr.wf_eq_true` under Laws/ says so. -/
def Instr.wf : Instr → Bool
  | .crcInit => true
  | .crcUpdate b => decide (b.toNat < 2 ^ 8)
  | .crcRead => true
  | .angClear => true
  | .angPush v => decide (v.toNat < 2 ^ 16)
  | .encEncode => true
  | .fbRead i => decide (i.toNat < 2 ^ 8)
  | .stRead => true
  | .ctlRead => true
  | .ctlWrite e => decide (e.toNat < 2)

/-- The line's operands fit: "0 to 255 for B, 0 to 65535 for H, 0 or 1 for C; an assembler refuses any other operand
and never truncates it" (30_encoding.md R52); none for format N; any number of bytes for `CRC.COMPUTE`, any number of
halfwords for `ENC.FRAME`, none for `FB.DUMP` (R53). -/
def SourceLine.wf (l : SourceLine) : Bool :=
  match l.mnemonic, l.operands with
  | .crcInit, [] => true
  | .crcUpdate, [b] => decide (b ≤ 255)
  | .crcRead, [] => true
  | .angClear, [] => true
  | .angPush, [v] => decide (v ≤ 65535)
  | .encEncode, [] => true
  | .fbRead, [i] => decide (i ≤ 255)
  | .stRead, [] => true
  | .ctlRead, [] => true
  | .ctlWrite, [e] => decide (e ≤ 1)
  | .crcCompute, bs => bs.all (fun b => decide (b ≤ 255))
  | .encFrame, vs => vs.all (fun v => decide (v ≤ 65535))
  | .fbDump, [] => true
  | _, _ => false

end Sys2Proof
end

