-- ==== Sys2Proof/Decode.lean ====
section
/-! DEFINITION. Decoding of the 24-bit command word (30_encoding.md R47 to R50, R54), total and rejecting by name;
then the encoder, and the opcode map of R49 as a table of masks. Decoding reads no state (R54). -/

namespace Sys2Proof

/-- `op = cmd[23:16]` (30_encoding.md R47). -/
def opField (w : CmdWord) : Byte := w.extractLsb' 16 8

/-- `arg = cmd[15:0]` (30_encoding.md R47). -/
def argField (w : CmdWord) : Word := w.extractLsb' 0 16

/-- `{op, arg}` (30_encoding.md R47, R52). -/
def commandWord (op : Byte) (arg : Word) : CmdWord := op ++ arg

/-- Format N: `arg` must be 0x0000 (30_encoding.md R48). -/
def formatN (op : Byte) (arg : Word) (i : Instr) : Except DecodeError Instr :=
  if arg = 0 then .ok i else .error (.mustBeZero op)

/-- Format B: the operand is `arg[7:0]`; `arg[15:8]` must be 0 (30_encoding.md R48). -/
def formatB (op : Byte) (arg : Word) (i : Byte → Instr) : Except DecodeError Instr :=
  if arg.extractLsb' 8 8 = (0 : Byte) then .ok (i (arg.extractLsb' 0 8)) else .error (.mustBeZero op)

/-- Format H: the operand is `arg[15:0]` (30_encoding.md R48). -/
def formatH (arg : Word) (i : Word → Instr) : Except DecodeError Instr :=
  .ok (i arg)

/-- Format C: the operand is `arg[0]`; `arg[15:1]` must be 0 (30_encoding.md R48). -/
def formatC (op : Byte) (arg : Word) (i : Bool → Instr) : Except DecodeError Instr :=
  if arg.extractLsb' 1 15 = (0 : BitVec 15) then .ok (i (arg.getLsbD 0)) else .error (.mustBeZero op)

/-- The command an opcode and an argument spell, or why they spell none (30_encoding.md R48 to R50). -/
def decodeFields (op : Byte) (arg : Word) : Except DecodeError Instr :=
  if op = 0x10 then formatN op arg .crcInit
  else if op = 0x11 then formatB op arg .crcUpdate
  else if op = 0x12 then formatN op arg .crcRead
  else if op = 0x20 then formatN op arg .angClear
  else if op = 0x21 then formatH arg .angPush
  else if op = 0x30 then formatN op arg .encEncode
  else if op = 0x31 then formatB op arg .fbRead
  else if op = 0x40 then formatN op arg .stRead
  else if op = 0x41 then formatN op arg .ctlRead
  else if op = 0x42 then formatC op arg .ctlWrite
  else .error (.unknownOpcode op)

/-- The decoder: one verdict for every command word (30_encoding.md R54). -/
def decode (w : CmdWord) : Except DecodeError Instr :=
  decodeFields (opField w) (argField w)

/-- The command word in a table row's bits: the low `nbits` bits of `w`, every higher bit 0. A command is one 24-bit
word with bit 0 its least significant (30_encoding.md R47), so no byte order enters (log 8). -/
def tableWord (nbits w : Nat) : CmdWord := BitVec.ofNat 24 (w % 2 ^ nbits)

/-- The command the decoder reads from a table row's bits; none where it refuses them, and none for bits that do not
fit the one length every command has (30_encoding.md R54). -/
def decodeTableWord (nbits w : Nat) : Option Instr :=
  if w % 2 ^ nbits < 2 ^ 24 then (decode (tableWord nbits w)).toOption else none

/-- A byte operand as an argument: zero-extended (30_encoding.md R52). -/
def byteArg (b : Byte) : Word := b.setWidth 16

/-- A one-bit operand as an argument: zero-extended (30_encoding.md R52). -/
def bitArg (e : Bool) : Word := (BitVec.ofBool e).setWidth 16

/-- The encoder: the command word of a command (30_encoding.md R49, R52). -/
def encode : Instr → CmdWord
  | .crcInit => commandWord 0x10 0
  | .crcUpdate b => commandWord 0x11 (byteArg b)
  | .crcRead => commandWord 0x12 0
  | .angClear => commandWord 0x20 0
  | .angPush v => commandWord 0x21 v
  | .encEncode => commandWord 0x30 0
  | .fbRead i => commandWord 0x31 (byteArg i)
  | .stRead => commandWord 0x40 0
  | .ctlRead => commandWord 0x41 0
  | .ctlWrite e => commandWord 0x42 (bitArg e)

/-- The row of the opcode map a command belongs to, as its pair (`match`, `mask`): the table of 30_encoding.md R49. -/
def opcodeRow : Instr → CmdWord × CmdWord
  | .crcInit => (0x100000, 0xFFFFFF)
  | .crcUpdate _ => (0x110000, 0xFFFF00)
  | .crcRead => (0x120000, 0xFFFFFF)
  | .angClear => (0x200000, 0xFFFFFF)
  | .angPush _ => (0x210000, 0xFF0000)
  | .encEncode => (0x300000, 0xFFFFFF)
  | .fbRead _ => (0x310000, 0xFFFF00)
  | .stRead => (0x400000, 0xFFFFFF)
  | .ctlRead => (0x410000, 0xFFFFFF)
  | .ctlWrite _ => (0x420000, 0xFFFFFE)

/-- The ten rows of the opcode map, in the order of the table of 30_encoding.md R49. -/
def opcodeRows : List (CmdWord × CmdWord) :=
  [opcodeRow .crcInit, opcodeRow (.crcUpdate 0), opcodeRow .crcRead, opcodeRow .angClear, opcodeRow (.angPush 0),
   opcodeRow .encEncode, opcodeRow (.fbRead 0), opcodeRow .stRead, opcodeRow .ctlRead, opcodeRow (.ctlWrite false)]

/-- `w & mask = match` (30_encoding.md R49). -/
def matchesRow (w : CmdWord) (row : CmdWord × CmdWord) : Bool := (w &&& row.2) == row.1

end Sys2Proof
end

