-- ==== Sys2Proof/Config.lean ====
section
/-! DEFINITION. The block's hardwired constants as one parameter record (00_scope.md R2), the values this hardware
gives them, and the free values: what the spec leaves unspecified or open, as constants without a body. -/

namespace Sys2Proof

/-- The constants of 00_scope.md R2, each a named parameter because the document's literals are unaudited
(92_eei_decisions.md D22). `CRC_LSB_FIRST = false` and `CRC_XOROUT ≠ 0` are values this hardware does not have; what
the functions do for them is the model's (log 7). -/
structure Params where
  /-- `CRC_POLY` -/
  crcPoly : Word
  /-- `CRC_INIT` -/
  crcInit : Word
  /-- `CRC_XOROUT` -/
  crcXorOut : Word
  /-- `CRC_LSB_FIRST` -/
  crcLsbFirst : Bool
  /-- `DEV_ADDR` -/
  devAddr : Byte
  /-- `FUNC_CODE` -/
  funcCode : Byte
  /-- `REG_START` -/
  regStart : Word
  /-- `REG_COUNT` -/
  regCount : Word
  /-- `BYTE_COUNT` -/
  byteCount : Byte
  /-- `N_AXES` -/
  nAxes : Nat
  /-- `HDR_LEN` -/
  hdrLen : Nat
  /-- `PAYLOAD_LEN` -/
  payloadLen : Nat
  /-- `CRC_LEN` -/
  crcLen : Nat
  /-- `FRAME_LEN` -/
  frameLen : Nat
  /-- `ANGLE_MAX` -/
  angleMax : Word
  /-- `ANGLE_MIN` -/
  angleMin : Word
  /-- `RCE_RESET` (92_eei_decisions.md D8) -/
  rceReset : Bool
deriving DecidableEq, Repr

/-- The values of this hardware: the table of 00_scope.md R2. -/
def Config.params : Params where
  crcPoly := 0xA001
  crcInit := 0xFFFF
  crcXorOut := 0x0000
  crcLsbFirst := true
  devAddr := 0x01
  funcCode := 0x10
  regStart := 0x05CE
  regCount := 0x0006
  byteCount := 0x0C
  nAxes := 6
  hdrLen := 7
  payloadLen := 12
  crcLen := 2
  frameLen := 21
  angleMax := 1000
  angleMin := 0
  rceReset := false

/-- FREE VALUE: what the staging register `ang[k]` holds after the `j`-th reset (10_state.md R18: "unspecified
contents"; 93_implementation_defined.md U1: "any value", "do not pick zero"). Log 1. DESIGN CHOICE. -/
opaque Config.angAtReset (j k : Nat) : Word

/-- FREE VALUE: what the frame byte `fb[i]` holds while nothing has been written to it since the `j`-th reset
(10_state.md R18; 93_implementation_defined.md U2). Log 2. DESIGN CHOICE. -/
opaque Config.fbAtReset (j i : Nat) : Byte

/-- OPEN parameter `T_CMD`, the latency of one command: finite, used by no rule (70_reset_and_hazards.md R130,
92_eei_decisions.md D27). Nothing of the model reads it. Log 9. -/
opaque Config.tCmd : Nat

/-- The fingers 41_angle_staging.md R75 lists; "or equivalent mapping" withdraws any commitment to an order. -/
inductive Axis where
  | little | ring | middle | index | thumbFlex | thumbRotate
deriving DecidableEq, Repr, Inhabited

/-- OPEN parameter `AXIS_MAP`, the finger each AngleVector index drives: used by no rule (92_eei_decisions.md D29).
Nothing of the model reads it. Log 9. -/
opaque Config.axisMap : Fin 6 → Axis

end Sys2Proof
end

