-- ==== Sys2Proof/Machine/State.lean ====
section
/-! DEFINITION. The state of the block (10_state.md R10 to R19), the response it gives to a command
(30_encoding.md R51), its exceptions (60_exceptions.md R100), what the host can do (00_scope.md R3,
70_reset_and_hazards.md R134), the reasons a step can stop, and the state after reset (R18). -/

namespace Sys2Proof.Machine

/-- The status of a response: "a model's status type has exactly five values" (93_implementation_defined.md U7,
30_encoding.md R51). -/
inductive Status where
  | ok | encodingError | illegalCommand | indexRange | noFrame
deriving DecidableEq, Repr

/-- A response: status and data (30_encoding.md R51). `Response.word` gives its 20 bits. -/
structure Response where
  status : Status
  data : Word
deriving DecidableEq, Repr

/-- The causes of `ENCODING_ERROR` with their detail byte (60_exceptions.md R101, 42_frame_codec.md R80). -/
inductive EncodingError where
  /-- Cause `COUNT`: the number of elements is not six. -/
  | count (detail : Byte)
  /-- Cause `RANGE`: an element exceeds the domain; the detail is the least such index. -/
  | range (detail : Byte)
deriving DecidableEq, Repr

/-- The four synchronous exceptions of the block, and no others (60_exceptions.md R100). Each is reported in a
response: the machine goes on. -/
inductive BlockException where
  /-- R101, raised by `ENC.ENCODE` only. -/
  | encodingError (e : EncodingError)
  /-- R102, raised by a word that is no command. -/
  | illegalCommand (op : Byte)
  /-- R103, raised by `FB.READ i` for `i > 20`. -/
  | indexRange (i : Byte)
  /-- R104, raised by `FB.READ i` for `i ≤ 20` while `fv = 0`. -/
  | noFrame
deriving DecidableEq, Repr

/-- What the host can do to the block: present a command word (00_scope.md R3), or reset it between two commands
(70_reset_and_hazards.md R121, R134). -/
inductive HostEvent where
  | command (w : CmdWord)
  | reset
deriving DecidableEq, Repr

/-- The frame buffer's bytes as (index, byte) cells: indices strictly rising, each at most 20 (`Memory.wf`). An
index that is not listed has not been written since the last reset; `frameByte` says what it reads as. -/
abbrev Memory := List Host.Cell

/-- The state. `crc` to `rce` are "the whole state of the block" (10_state.md). `input`, `responses` and `resets` are
the model's own fields (log 3, log 4): the events the host has still to present, the responses returned so far with
the oldest first, and the number of resets, which only selects free values. -/
structure State where
  /-- R10 -/
  crc : Word
  /-- R11 -/
  ang : Vector Word 6
  /-- R12: a 3-bit counter, 7 meaning seven or more. -/
  n : BitVec 3
  /-- R13 -/
  fb : Memory
  /-- R14 -/
  fv : Bool
  /-- R15: bit 0 of `CTRL`. -/
  rce : Bool
  input : List HostEvent
  responses : List Response
  resets : Nat
deriving DecidableEq, Repr

/-- Why the machine stops. No command stops it: every exception of the spec is a response (60_exceptions.md R108). -/
inductive Fault where
  /-- Raised by `step` alone, when the host presents neither a command nor a reset: "No step happens without a
  command, except reset" (00_scope.md R3); "A run is over when the host has issued the last command of its finite
  list" (70_reset_and_hazards.md R132). Safe: the model does nothing where the block does nothing. Log 5. -/
  | noCommandPresented
deriving DecidableEq, Repr

/-- Why an instruction has no meaning. -/
inductive Refusal where
  /-- Raised by `exec`'s arm of an instruction that has no meaning yet, by its mnemonic; safe. No arm raises it:
  all ten commands have their meaning. -/
  | notModelled (mnemonic : String)
deriving DecidableEq, Repr

/-- What `ang[0..5]` hold after the `j`-th reset: free values (log 1). -/
def angAfterReset (j : Nat) : Vector Word 6 :=
  #v[Config.angAtReset j 0, Config.angAtReset j 1, Config.angAtReset j 2,
     Config.angAtReset j 3, Config.angAtReset j 4, Config.angAtReset j 5]

/-- The machine right after reset (10_state.md R18, 70_reset_and_hazards.md R120): `crc`, `n`, `fv`, `rce` as the
spec gives them; `ang` at free values (log 1); no byte of `fb` written (log 2); nothing presented and nothing
answered yet (log 4). -/
def State.reset : State where
  crc := Config.params.crcInit
  ang := angAfterReset 0
  n := 0
  fb := []
  fv := false
  rce := Config.params.rceReset
  input := []
  responses := []
  resets := 0

end Sys2Proof.Machine
end

