-- ==== Sys2Proof/Machine/Ops.lean ====
section
/-! DEFINITION. The named operations over memory, registers and responses: placing a 16-bit value in bytes
(20_memory.md R22), the frame buffer (R20, R21), the staging registers, answering a command (30_encoding.md R51),
raising an exception (60_exceptions.md R100 to R108), and reset (70_reset_and_hazards.md R120). -/

namespace Sys2Proof.Machine

/-! ### 16-bit values in bytes -/

/-- `hi8(v) = v[15:8]` (00_scope.md section 7). -/
def hi8 (v : Word) : Byte := v.extractLsb' 8 8

/-- `lo8(v) = v[7:0]` (00_scope.md section 7). -/
def lo8 (v : Word) : Byte := v.extractLsb' 0 8

/-- Big-endian placement: the high byte at the lower index (20_memory.md R22). -/
def be16 (q : Word) : List Byte := [hi8 q, lo8 q]

/-- Little-endian placement: the low byte at the lower index (20_memory.md R22). -/
def le16 (q : Word) : List Byte := [lo8 q, hi8 q]

/-- `zext_16` of a byte (00_scope.md section 7). -/
def zext16 (b : Byte) : Word := b.setWidth 16

/-! ### The frame buffer -/

/-- The byte listed at index `a`, if one is. -/
def Memory.lookup : Memory → Nat → Option Byte
  | [], _ => none
  | (k, b) :: m, a => if k = a then some b else Memory.lookup m a

/-- Write the byte `v` at index `a`, keeping the indices strictly rising. -/
def Memory.write : Memory → Nat → Byte → Memory
  | [], a, v => [(a, v)]
  | (k, b) :: m, a, v =>
    if k < a then (k, b) :: Memory.write m a v
    else if k = a then (a, v) :: m
    else (a, v) :: (k, b) :: m

/-- Write consecutive bytes, the first at index `a`. -/
def Memory.writeBytes : Memory → Nat → List Byte → Memory
  | m, _, [] => m
  | m, a, b :: bs => Memory.writeBytes (Memory.write m a b) (a + 1) bs

/-- Every index listed is above `a`, and they rise strictly. -/
def Memory.risesFrom : Nat → Memory → Bool
  | _, [] => true
  | a, (k, _) :: m => decide (a ≤ k) && Memory.risesFrom (k + 1) m

/-- The canonical form: indices strictly rising, and each one an index of `FB`, 0 to 20 (20_memory.md R21). -/
def Memory.wf (m : Memory) : Bool :=
  Memory.risesFrom 0 m && m.all (fun c => decide (c.1 < Config.params.frameLen))

/-- What `fb[i]` holds: the byte last written, or the free value a reset left there (log 2). -/
def frameByte (s : State) (i : Nat) : Byte :=
  (s.fb.lookup i).getD (Config.fbAtReset s.resets i)

/-- `fb[0..20]` in index order, which is wire order (20_memory.md R24). -/
def frameBytes (s : State) : List Byte :=
  (List.range Config.params.frameLen).map (frameByte s)

/-- `for i = 0 to 20: fb[i] <- f[i]` and `fv <- 1`, as one update (20_memory.md R27, 42_frame_codec.md R82). -/
def storeFrame (f : List Byte) (s : State) : State :=
  { s with fb := s.fb.writeBytes 0 f, fv := true }

/-! ### The registers -/

/-- `crc <- v`. -/
def setCrc (v : Word) (s : State) : State := { s with crc := v }

/-- `n <- v`. -/
def setCount (v : BitVec 3) (s : State) : State := { s with n := v }

/-- `ang[k] <- v`, for `k` below six. -/
def setAngle (k : Nat) (v : Word) (s : State) : State := { s with ang := s.ang.setIfInBounds k v }

/-- `rce <- e`. -/
def setRce (e : Bool) (s : State) : State := { s with rce := e }

/-- `fv <- e`. -/
def setFrameValid (e : Bool) (s : State) : State := { s with fv := e }

/-! ### Responses and exceptions -/

/-- The status code of 30_encoding.md R51. -/
def Status.code : Status → BitVec 4
  | .ok => 0
  | .encodingError => 1
  | .illegalCommand => 2
  | .indexRange => 3
  | .noFrame => 4

/-- The 20-bit response word: status in bits 19 to 16, data in bits 15 to 0 (30_encoding.md R51). -/
def Response.word (r : Response) : RspWord := r.status.code ++ r.data

/-- `respond(status, data)`: the command is answered by one response (00_scope.md section 7, 30_encoding.md R51). -/
def respond (status : Status) (data : Word) (s : State) : State :=
  { s with responses := s.responses ++ [⟨status, data⟩] }

/-- The status an exception is reported with (60_exceptions.md R100). -/
def BlockException.status : BlockException → Status
  | .encodingError _ => .encodingError
  | .illegalCommand _ => .illegalCommand
  | .indexRange _ => .indexRange
  | .noFrame => .noFrame

/-- `{subcause[7:0], detail[7:0]}` (60_exceptions.md R101). -/
def EncodingError.data : EncodingError → Word
  | .count detail => (0x01 : Byte) ++ detail
  | .range detail => (0x02 : Byte) ++ detail

/-- The information an exception is reported with (60_exceptions.md R100 to R104). -/
def BlockException.data : BlockException → Word
  | .encodingError e => e.data
  | .illegalCommand op => (0x00 : Byte) ++ op
  | .indexRange i => (0x00 : Byte) ++ i
  | .noFrame => 0x0000

/-- Taking an exception: "Exception entry is the error response and nothing more" (60_exceptions.md R108). No state
is saved, no mode changes, control goes nowhere. The one state write a command makes with an exception, `fv <- 0` of a
failing `ENC.ENCODE`, stands in that command (42_frame_codec.md R82). There is no return: nothing was entered
(R109). -/
def raise (x : BlockException) (s : State) : State :=
  respond x.status x.data s

/-- A word that is no command: `ILLEGAL_COMMAND` with the word's opcode byte, and no state change
(30_encoding.md R50, 60_exceptions.md R102). -/
def illegalWord (w : CmdWord) (s : State) : State :=
  raise (.illegalCommand (opField w)) s

/-! ### The host's side -/

/-- The events the host has still to present. -/
def setInput (es : List HostEvent) (s : State) : State := { s with input := es }

/-- Reset (70_reset_and_hazards.md R120): `crc`, `n`, `fv`, `rce` to their reset values, `ang` and `fb` left with
unspecified contents, which are the free values of the next reset number (log 3). What the host has yet to present and
the responses it has received are the host's and stay. -/
def applyReset (s : State) : State :=
  { s with
    crc := Config.params.crcInit
    ang := angAfterReset (s.resets + 1)
    n := 0
    fb := []
    fv := false
    rce := Config.params.rceReset
    resets := s.resets + 1 }

end Sys2Proof.Machine
end

