-- ==== Sys2Proof/Machine/Operands.lean ====
section
/-! DEFINITION. What the commands' operands address: the frame index of `FB.READ` (42_frame_codec.md R83) and the
staged vector `ENC.ENCODE` and `ANG.PUSH` work on (41_angle_staging.md R75, R77). The operand forms of the command word
itself (30_encoding.md R48) are in Decode.lean. -/

namespace Sys2Proof.Machine

/-- "effective address = `i`, no base, no offset, no scaling" (42_frame_codec.md R83). -/
def frameIndex (i : Byte) : Nat := i.toNat

/-- The index exists: 0 to 20 (20_memory.md R21). -/
def frameIndexExists (i : Byte) : Bool := decide (frameIndex i < Config.params.frameLen)

/-- Exactly six elements are staged (42_frame_codec.md R82). -/
def sixStaged (s : State) : Bool := decide (s.n.toNat = Config.params.nAxes)

/-- `[ang[0], ang[1], ang[2], ang[3], ang[4], ang[5]]` (42_frame_codec.md R82). -/
def angles (s : State) : List Word := s.ang.toList

/-- The staged vector: "the list `ang[0]`, up to `ang[min(n, 6) - 1]`" (41_angle_staging.md R75). -/
def stagedVector (s : State) : List Word := (angles s).take s.n.toNat

end Sys2Proof.Machine
end

