-- ==== Sys2Proof/Machine/FrameCodec.lean ====
section
/-! DEFINITION. The FrameCodec: the pure function `encode` (42_frame_codec.md R80), the CommandFrame's layout
(30_encoding.md R41 to R44), and `ENC.ENCODE` and `FB.READ` (42_frame_codec.md R82, R83). -/

namespace Sys2Proof.Machine

/-- The seven header bytes (30_encoding.md R41, R42). -/
def frameHeader (p : Params) : List Byte :=
  [p.devAddr, p.funcCode] ++ be16 p.regStart ++ be16 p.regCount ++ [p.byteCount]

/-- The payload: each angle big-endian, in declared order (30_encoding.md R43). -/
def framePayload (a : List Word) : List Byte := a.flatMap be16

/-- Header, payload, and the checksum of both low byte first (30_encoding.md R41, R44). -/
def frameOf (p : Params) (a : List Word) : List Byte :=
  frameHeader p ++ framePayload a ++ le16 (crc16 p (frameHeader p ++ framePayload a))

/-- The element is outside the device's domain, `ANGLE_MIN` to `ANGLE_MAX` inclusive (42_frame_codec.md R81). -/
def outOfDomain (p : Params) (v : Word) : Bool := decide (v < p.angleMin) || decide (p.angleMax < v)

/-- The least index whose element is outside the domain (42_frame_codec.md R80). -/
def firstOutOfDomain (p : Params) (a : List Word) : Option Nat := a.findIdx? (outOfDomain p)

/-- `encode(a, e)` (42_frame_codec.md R80): the count is checked before the range, and a value is never changed. -/
def encodeFrame (p : Params) (a : List Word) (e : Bool) : Except EncodingError (List Byte) :=
  if a.length ≠ p.nAxes then .error (.count (BitVec.ofNat 8 (min a.length 7)))
  else
    match (if e then firstOutOfDomain p a else none) with
    | some k => .error (.range (BitVec.ofNat 8 k))
    | none => .ok (frameOf p a)

/-- The 21 bytes are a CommandFrame whose checksum is right: the header of 30_encoding.md R42, and the trailer of
R44. -/
def isCommandFrame (p : Params) (f : List Byte) : Bool :=
  decide (f.length = p.frameLen) && decide (f.take p.hdrLen = frameHeader p) &&
    decide (f.drop (p.hdrLen + p.payloadLen) = le16 (crc16 p (f.take (p.hdrLen + p.payloadLen))))

/-- `ENC.ENCODE` (42_frame_codec.md R82). The count is tested first; on either failure `fv <- 0` and nothing else is
written. The trailer's accumulator is inside `encodeFrame`: `crc` is neither read nor written. -/
def execEncEncode (s : State) : Host.Outcome State Fault Refusal :=
  if sixStaged s then
    match encodeFrame Config.params (angles s) s.rce with
    | .ok f => .next (respond .ok 0x0000 (storeFrame f s))
    | .error x => .next (raise (.encodingError x) (setFrameValid false s))
  else .next (raise (.encodingError (.count (s.n.setWidth 8))) (setFrameValid false s))

/-- `FB.READ i` (42_frame_codec.md R83): the index is tested before the valid flag. -/
def execFbRead (i : Byte) (s : State) : Host.Outcome State Fault Refusal :=
  if frameIndexExists i then
    if s.fv then .next (respond .ok (zext16 (frameByte s (frameIndex i))) s)
    else .next (raise .noFrame s)
  else .next (raise (.indexRange i) s)

end Sys2Proof.Machine
end

