-- ==== Sys2Proof/Machine/Staging.lean ====
section
/-! DEFINITION. The angle staging file: `ANG.CLEAR` and `ANG.PUSH` (41_angle_staging.md R75 to R77). -/

namespace Sys2Proof.Machine

/-- The three cases of 41_angle_staging.md R77: an element below the sixth is stored and counted, the seventh is only
counted, and from `n = 7` on nothing changes. -/
def pushAngle (v : Word) (s : State) : State :=
  if s.n.toNat < Config.params.nAxes then setCount (s.n + 1) (setAngle s.n.toNat v s)
  else if s.n.toNat = Config.params.nAxes then setCount 7 s
  else s

/-- `ANG.CLEAR`: `n <- 0; respond(OK, 0x0000)` (41_angle_staging.md R76). -/
def execAngClear (s : State) : Host.Outcome State Fault Refusal :=
  .next (respond .ok 0x0000 (setCount 0 s))

/-- `ANG.PUSH v` (41_angle_staging.md R77): a push never fails. -/
def execAngPush (v : Word) (s : State) : Host.Outcome State Fault Refusal :=
  .next (respond .ok 0x0000 (pushAngle v s))

end Sys2Proof.Machine
end

