-- ==== Sys2Proof/Machine/Flags.lean ====
section
/-! DEFINITION. The block's flags as software reads them: `STATUS` and `CTRL`, the read-only views of `fv`, `n` and
`rce` (10_state.md R15, R16). The one flag computation of the block is `fv`, written by `ENC.ENCODE` alone (R14). -/

namespace Sys2Proof.Machine

/-- `STATUS = {0x000, n[2:0], fv}` (10_state.md R16, 43_system.md R90). -/
def statusWord (s : State) : Word := (0x000 : BitVec 12) ++ s.n ++ BitVec.ofBool s.fv

/-- `CTRL = zext_16(rce)` (10_state.md R15, 43_system.md R91). -/
def ctrlWord (s : State) : Word := (BitVec.ofBool s.rce).setWidth 16

end Sys2Proof.Machine
end

