-- ==== Sys2Proof/Machine/System.lean ====
section
/-! DEFINITION. The status and control commands: `ST.READ`, `CTL.READ`, `CTL.WRITE` (43_system.md R90 to R92). -/

namespace Sys2Proof.Machine

/-- `ST.READ`: `respond(OK, STATUS)` (43_system.md R90). -/
def execStRead (s : State) : Host.Outcome State Fault Refusal :=
  .next (respond .ok (statusWord s) s)

/-- `CTL.READ`: `respond(OK, CTRL)` (43_system.md R91). -/
def execCtlRead (s : State) : Host.Outcome State Fault Refusal :=
  .next (respond .ok (ctrlWord s) s)

/-- `CTL.WRITE e`: `rce <- e; respond(OK, 0x0000)` (43_system.md R92). -/
def execCtlWrite (e : Bool) (s : State) : Host.Outcome State Fault Refusal :=
  .next (respond .ok 0x0000 (setRce e s))

end Sys2Proof.Machine
end

