-- ==== Sys2Proof/Machine/Dispatch.lean ====
section
/-! DEFINITION. One arm per command: which meaning it has. -/

namespace Sys2Proof.Machine

def exec (i : Instr) (s : State) : Host.Outcome State Fault Refusal :=
  match i with
  | .crcInit => Sys2Proof.Machine.execCrcInit s
  | .crcUpdate b => Sys2Proof.Machine.execCrcUpdate b s
  | .crcRead => Sys2Proof.Machine.execCrcRead s
  | .angClear => Sys2Proof.Machine.execAngClear s
  | .angPush v => Sys2Proof.Machine.execAngPush v s
  | .encEncode => Sys2Proof.Machine.execEncEncode s
  | .fbRead k => Sys2Proof.Machine.execFbRead k s
  | .stRead => Sys2Proof.Machine.execStRead s
  | .ctlRead => Sys2Proof.Machine.execCtlRead s
  | .ctlWrite e => Sys2Proof.Machine.execCtlWrite e s

end Sys2Proof.Machine
end

