-- ==== Sys2Proof/Machine/Step.lean ====
section
/-! DEFINITION. One step: the next event the host presents, taken whole (00_scope.md R3, 20_memory.md R27). -/

namespace Sys2Proof.Machine

/-- One step. A command word that decodes runs its command; one that does not is answered `ILLEGAL_COMMAND`
(30_encoding.md R50); a reset resets (70_reset_and_hazards.md R120, R121); with nothing presented no step happens
(00_scope.md R3, log 5). -/
def step (s : State) : Host.Outcome State Fault Refusal :=
  match s.input with
  | [] => .fault .noCommandPresented
  | .reset :: rest => .next (applyReset (setInput rest s))
  | .command w :: rest =>
    match decode w with
    | .ok i => exec i (setInput rest s)
    | .error _ => .next (illegalWord w (setInput rest s))

/-- `s` with the command word of a table row presented next (log 4, log 8): the very next step runs it. -/
def State.withFetchWord (s : State) (nbits w : Nat) : State :=
  setInput (.command (tableWord nbits w) :: s.input) s

end Sys2Proof.Machine
end

