-- ==== Sys2Proof/Machine/Assembler.lean ====
section
/-! DEFINITION. The assembler: what a source line spells (30_encoding.md R52) and the three pseudo-instructions as
fixed expansions into commands (R53). The block never sees a line: the host issues the command words. -/

namespace Sys2Proof.Machine

/-- The commands of a line whose operands fit, in issue order: itself for a command, the fixed expansion for a
pseudo-instruction (30_encoding.md R52, R53). A line whose operands do not fit has none. -/
def lineCommands (l : SourceLine) : List Instr :=
  match l.mnemonic, l.operands with
  | .crcInit, [] => [.crcInit]
  | .crcUpdate, [b] => [.crcUpdate (BitVec.ofNat 8 b)]
  | .crcRead, [] => [.crcRead]
  | .angClear, [] => [.angClear]
  | .angPush, [v] => [.angPush (BitVec.ofNat 16 v)]
  | .encEncode, [] => [.encEncode]
  | .fbRead, [i] => [.fbRead (BitVec.ofNat 8 i)]
  | .stRead, [] => [.stRead]
  | .ctlRead, [] => [.ctlRead]
  | .ctlWrite, [e] => [.ctlWrite (decide (e = 1))]
  | .crcCompute, bs => [.crcInit] ++ bs.map (fun b => .crcUpdate (BitVec.ofNat 8 b)) ++ [.crcRead]
  | .encFrame, vs => [.angClear] ++ vs.map (fun v => .angPush (BitVec.ofNat 16 v)) ++ [.encEncode]
  | .fbDump, [] => (List.range 21).map (fun i => .fbRead (BitVec.ofNat 8 i))
  | _, _ => []

/-- The command words of a line. An operand that does not fit is refused, never truncated (30_encoding.md R52). -/
def assemble (l : SourceLine) : Except AsmError (List CmdWord) :=
  if l.wf then .ok ((lineCommands l).map encode) else .error .operandDoesNotFit

/-- A mnemonic's spelling, in capitals (30_encoding.md R49, R52, R53). -/
def Mnemonic.spelling : Mnemonic → List Char
  | .crcInit => ['C', 'R', 'C', '.', 'I', 'N', 'I', 'T']
  | .crcUpdate => ['C', 'R', 'C', '.', 'U', 'P', 'D', 'A', 'T', 'E']
  | .crcRead => ['C', 'R', 'C', '.', 'R', 'E', 'A', 'D']
  | .angClear => ['A', 'N', 'G', '.', 'C', 'L', 'E', 'A', 'R']
  | .angPush => ['A', 'N', 'G', '.', 'P', 'U', 'S', 'H']
  | .encEncode => ['E', 'N', 'C', '.', 'E', 'N', 'C', 'O', 'D', 'E']
  | .fbRead => ['F', 'B', '.', 'R', 'E', 'A', 'D']
  | .stRead => ['S', 'T', '.', 'R', 'E', 'A', 'D']
  | .ctlRead => ['C', 'T', 'L', '.', 'R', 'E', 'A', 'D']
  | .ctlWrite => ['C', 'T', 'L', '.', 'W', 'R', 'I', 'T', 'E']
  | .crcCompute => ['C', 'R', 'C', '.', 'C', 'O', 'M', 'P', 'U', 'T', 'E']
  | .encFrame => ['E', 'N', 'C', '.', 'F', 'R', 'A', 'M', 'E']
  | .fbDump => ['F', 'B', '.', 'D', 'U', 'M', 'P']

/-- The thirteen spellings an assembler line may begin with. -/
def mnemonics : List Mnemonic :=
  [.crcInit, .crcUpdate, .crcRead, .angClear, .angPush, .encEncode, .fbRead, .stRead, .ctlRead, .ctlWrite,
   .crcCompute, .encFrame, .fbDump]

/-- A digit's value below `base`; both cases of a hexadecimal letter are taken (log 12). -/
def digitValue (base : Nat) (c : Char) : Option Nat :=
  let n := c.toNat
  let v := if 48 ≤ n ∧ n ≤ 57 then n - 48
    else if 65 ≤ n ∧ n ≤ 70 then n - 55
    else if 97 ≤ n ∧ n ≤ 102 then n - 87
    else base
  if v < base then some v else none

/-- The digits of a number from the left, `acc` being the value of those already read. -/
def digitsValue (base : Nat) : Nat → List Char → Option Nat
  | acc, [] => some acc
  | acc, c :: cs =>
    match digitValue base c with
    | some d => digitsValue base (acc * base + d) cs
    | none => none

/-- "an unsigned decimal number or a hexadecimal number with the prefix `0x`" (30_encoding.md R52). -/
def numberValue : List Char → Option Nat
  | [] => none
  | '0' :: 'x' :: [] => none
  | '0' :: 'x' :: c :: cs => digitsValue 16 0 (c :: cs)
  | c :: cs => digitsValue 10 0 (c :: cs)

/-- "A semicolon starts a comment that runs to the end of the line" (30_encoding.md R52). -/
def dropComment (line : List Char) : List Char := line.takeWhile (fun c => c ≠ ';')

/-- The words of a line, separated by spaces; `cur` is the word being read, last letter first (log 12). -/
def lineWords : List Char → List Char → List (List Char)
  | cur, [] => if cur.isEmpty then [] else [cur.reverse]
  | cur, c :: cs =>
    if c = ' ' then (if cur.isEmpty then lineWords [] cs else cur.reverse :: lineWords [] cs)
    else lineWords (c :: cur) cs

/-- The numbers the words of a line spell. -/
def numbersOf : List (List Char) → Except AsmError (List Nat)
  | [] => .ok []
  | w :: ws =>
    match numberValue w, numbersOf ws with
    | some n, .ok ns => .ok (n :: ns)
    | none, _ => .error .badNumber
    | some _, .error e => .error e

/-- What a line of text spells: nothing for a blank line or a comment, else a mnemonic and its operands
(30_encoding.md R52, R53). -/
def parseLine (line : List Char) : Except AsmError (Option SourceLine) :=
  match lineWords [] (dropComment line) with
  | [] => .ok none
  | name :: rest =>
    match mnemonics.find? (fun m => Mnemonic.spelling m == name), numbersOf rest with
    | none, _ => .error .unknownMnemonic
    | some _, .error e => .error e
    | some m, .ok ns => .ok (some ⟨m, ns⟩)

/-- The command words of a text, "one command per line" (30_encoding.md R52); the first line that is refused refuses
the text. -/
def assembleText : List (List Char) → Except AsmError (List CmdWord)
  | [] => .ok []
  | line :: lines =>
    match parseLine line, assembleText lines with
    | .error e, _ => .error e
    | .ok none, r => r
    | .ok (some l), r =>
      match assemble l, r with
      | .error e, _ => .error e
      | .ok _, .error e => .error e
      | .ok ws, .ok vs => .ok (ws ++ vs)

end Sys2Proof.Machine
end

