-- ==== Sys2Proof/Safety.lean ====
section
/-! DEFINITION. The terms claims are stated in: the invariant every run keeps, what the host can tell two states apart
by, and command words as the host issues them. -/

namespace Sys2Proof.Machine

/-- The invariant of a run. `fb` is in canonical form; and `fv = 1` means that `fb` holds a complete CommandFrame
with a right checksum (10_state.md R14, 30_encoding.md R42, R44, 60_exceptions.md R113), every byte of it written
(10_state.md R19). -/
structure Inv (s : State) : Prop where
  memory_wf : s.fb.wf = true
  frame_written : s.fv = true → ∀ i, i < 21 → (s.fb.lookup i).isSome = true
  frame_good : s.fv = true → isCommandFrame Config.params (frameBytes s) = true

/-- The two states hold the same of everything 10_state.md R19 lets a command observe: `crc`, `n`, `fv`, `rce`; the
elements pushed, while none has been discarded; the frame, while it is valid; and what the host has still to present
and has been answered. Nothing is said of `ang[k]` for `k ≥ n`, of `ang` once `n = 7`, of `fb` while `fv = 0`, or of
`resets`. -/
structure SameToHost (s t : State) : Prop where
  crc : s.crc = t.crc
  n : s.n = t.n
  fv : s.fv = t.fv
  rce : s.rce = t.rce
  input : s.input = t.input
  responses : s.responses = t.responses
  staged : s.n ≠ 7 → stagedVector s = stagedVector t
  frame : s.fv = true → frameBytes s = frameBytes t

/-- The register `ang[k]`, for `k` up to 5. -/
def angleAt (s : State) (k : Nat) : Word := (angles s).getD k 0

/-- The byte `CRC.UPDATE` feeds the checksum, for a word that is that command. -/
def updateByte (w : CmdWord) : Option Byte :=
  match decode w with
  | .ok (.crcUpdate b) => some b
  | _ => none

/-- `s` with exactly the command words `ws` to be presented. -/
def issuing (s : State) (ws : List CmdWord) : State := setInput (ws.map HostEvent.command) s

/-- `k` steps of the machine, from `s`. -/
def runs (k : Nat) (s : State) : Host.Outcome State Fault Refusal := Host.Core.run Sys2Proof.core k s

end Sys2Proof.Machine
end

