-- ==== Sys2Proof/Certificates/Slice0/Obligations.lean ====
section
/-! DEFINITION. The statements for the provers, from the spec's numbered rules. -/

open Sys2Proof Sys2Proof.Machine

/-! ### Reset and the host's side -/

/-- 10_state.md R18, 70_reset_and_hazards.md R120: the registers reset leaves, for a reset event from any state and for
`State.reset`. Nothing is said of the unspecified contents of `ang` and `fb`. The clauses `t.input = rest` and
`t.responses = s.responses` are the MODEL'S CHOICE and no rule of the spec (log 3, DESIGN CHOICE): the events the host
has still to present and the responses it has received stay over a reset. -/
def Obligations.ResetSetsTheSpecifiedRegisters : Prop :=
  (∀ (s : State) (rest : List HostEvent), s.input = .reset :: rest → ∃ t, step s = .next t ∧
    t.crc = 0xFFFF ∧ t.n = 0 ∧ t.fv = false ∧ t.rce = false ∧ ctrlWord t = 0x0000 ∧ statusWord t = 0x0000 ∧
    t.input = rest ∧ t.responses = s.responses) ∧
  State.reset.crc = 0xFFFF ∧ State.reset.n = 0 ∧ State.reset.fv = false ∧ State.reset.rce = false ∧
  ctrlWord State.reset = 0x0000 ∧ statusWord State.reset = 0x0000

/-- 70_reset_and_hazards.md R120 and 93_implementation_defined.md U6: the state after reset does not depend on the
state before it, as far as the host can tell. -/
def Obligations.ResetForgetsTheStateBefore : Prop :=
  ∀ (s t : State) (rest : List HostEvent), s.input = .reset :: rest → t.input = .reset :: rest →
    s.responses = t.responses → ∃ s' t', step s = .next s' ∧ step t = .next t' ∧ SameToHost s' t'

/-- 00_scope.md R3: a step presents the next command word and runs the command it decodes to on the state that has the
rest still to present. -/
def Obligations.StepRunsTheDecodedCommand : Prop :=
  ∀ (s : State) (w : CmdWord) (rest : List HostEvent) (i : Instr),
    s.input = .command w :: rest → decode w = .ok i → step s = exec i { s with input := rest }

/-- The model's choice (log 5), after 00_scope.md R3 "No step happens without a command, except reset": a step stops
exactly when nothing is presented, and then by the fault of that name. -/
def Obligations.StepStopsExactlyWithNothingPresented : Prop :=
  ∀ s : State, (s.input = [] → step s = .fault .noCommandPresented) ∧ (s.input ≠ [] → ∃ t, step s = .next t)

/-- 00_scope.md R3, 70_reset_and_hazards.md R133: "after every command, exactly one response", whatever the word. -/
def Obligations.EveryCommandWordIsAnsweredOnce : Prop :=
  ∀ (s : State) (w : CmdWord) (rest : List HostEvent), s.input = .command w :: rest →
    ∃ t r, step s = .next t ∧ t.responses = s.responses ++ [r] ∧ t.input = rest ∧ t.resets = s.resets

/-! ### Encodings -/

/-- 30_encoding.md R49: a word is the command of a row exactly when `w & mask = match`, and the rows are disjoint. -/
def Obligations.OpcodeMapSelectsTheCommand : Prop :=
  (∀ (w : CmdWord) (i : Instr), decode w = .ok i → matchesRow w (opcodeRow i) = true) ∧
  (∀ (w : CmdWord) (i : Instr), matchesRow w (opcodeRow i) = true →
    ∃ j, decode w = .ok j ∧ opcodeRow j = opcodeRow i) ∧
  (∀ (w : CmdWord), ∀ r₁ ∈ opcodeRows, ∀ r₂ ∈ opcodeRows,
    matchesRow w r₁ = true → matchesRow w r₂ = true → r₁ = r₂) ∧
  (∀ i : Instr, opcodeRow i ∈ opcodeRows)

/-- 30_encoding.md R47 to R49, R54: every command, with every operand, is what its word decodes to. -/
def Obligations.DecodeOfEncodeIsTheCommand : Prop :=
  ∀ i : Instr, i.wf = true → decode (encode i) = .ok i

/-- 30_encoding.md R49, R50: each legal word spells one command and no bit of it is ignored. -/
def Obligations.EncodeOfDecodeIsTheWord : Prop :=
  ∀ (w : CmdWord) (i : Instr), decode w = .ok i → encode i = w

/-- 95_test_vectors.md V5: words written out from the encodings of 30_encoding.md R47 to R50. -/
def Obligations.WordsOfTheSpecDecode : Prop :=
  decode 0b000100000000000000000000#24 = .ok .crcInit ∧
  decode 0b000100010000000011111111#24 = .ok (.crcUpdate 0xFF) ∧
  decode 0b001000010000001111101000#24 = .ok (.angPush 1000) ∧
  decode 0b001100010000000000010100#24 = .ok (.fbRead 20) ∧
  decode 0b010000100000000000000001#24 = .ok (.ctlWrite true) ∧
  decode 0x420002#24 = .error (.mustBeZero 0x42) ∧
  decode 0x130000#24 = .error (.unknownOpcode 0x13)

/-- 30_encoding.md R51: the 20 bits of a response, and the five status codes. -/
def Obligations.ResponseWordHoldsStatusAndData : Prop :=
  (∀ r : Response, r.word.extractLsb' 16 4 = r.status.code ∧ r.word.extractLsb' 0 16 = r.data) ∧
  Status.code .ok = 0 ∧ Status.code .encodingError = 1 ∧ Status.code .illegalCommand = 2 ∧
  Status.code .indexRange = 3 ∧ Status.code .noFrame = 4

/-- 60_exceptions.md R102: a word that matches no row is answered `ILLEGAL_COMMAND` with its opcode byte and has no
other effect. -/
def Obligations.WordOutsideTheOpcodeMapIsIllegal : Prop :=
  ∀ (s : State) (w : CmdWord) (rest : List HostEvent), s.input = .command w :: rest →
    (∀ row ∈ opcodeRows, matchesRow w row = false) →
    step s = .next { s with
      input := rest, responses := s.responses ++ [⟨.illegalCommand, (0x00 : Byte) ++ opField w⟩] }

/-! ### The ten commands -/

/-- 40_checksum_engine.md R64. -/
def Obligations.CrcInitWritesTheInitialValue : Prop :=
  decode 0x100000 = .ok .crcInit ∧
  (∀ arg : Word, arg ≠ 0 → ∃ e, decode (commandWord 0x10 arg) = .error e) ∧
  ∀ s : State, exec .crcInit s =
    .next { s with crc := 0xFFFF, responses := s.responses ++ [⟨.ok, 0x0000⟩] }

/-- 40_checksum_engine.md R65. -/
def Obligations.CrcUpdateFeedsOneByte : Prop :=
  (∀ b : Byte, decode (0x110000 ||| b.setWidth 24) = .ok (.crcUpdate b)) ∧
  (∀ arg : Word, arg.extractLsb' 8 8 ≠ (0 : Byte) → ∃ e, decode (commandWord 0x11 arg) = .error e) ∧
  ∀ (b : Byte) (s : State), exec (.crcUpdate b) s =
    .next { s with crc := crcStep Config.params s.crc b, responses := s.responses ++ [⟨.ok, 0x0000⟩] }

/-- 40_checksum_engine.md R66. -/
def Obligations.CrcReadAnswersTheRegister : Prop :=
  decode 0x120000 = .ok .crcRead ∧
  (∀ arg : Word, arg ≠ 0 → ∃ e, decode (commandWord 0x12 arg) = .error e) ∧
  ∀ s : State, exec .crcRead s = .next { s with responses := s.responses ++ [⟨.ok, s.crc⟩] }

/-- 41_angle_staging.md R76. -/
def Obligations.AngClearZeroesTheCountOnly : Prop :=
  decode 0x200000 = .ok .angClear ∧
  (∀ arg : Word, arg ≠ 0 → ∃ e, decode (commandWord 0x20 arg) = .error e) ∧
  ∀ s : State, exec .angClear s = .next { s with n := 0, responses := s.responses ++ [⟨.ok, 0x0000⟩] }

/-- 41_angle_staging.md R77: below six the element is stored at `ang[n]` and counted; the seventh is only counted;
from seven on nothing changes. Every other register and every byte of the frame buffer stays. -/
def Obligations.AngPushStoresAndCounts : Prop :=
  (∀ v : Word, decode (0x210000 ||| v.setWidth 24) = .ok (.angPush v)) ∧
  ∀ (v : Word) (s : State), ∃ t, exec (.angPush v) s = .next t ∧
    (s.n.toNat < 6 → t.n.toNat = s.n.toNat + 1 ∧
      ∀ k, k < 6 → angleAt t k = if k = s.n.toNat then v else angleAt s k) ∧
    (6 ≤ s.n.toNat → t.n = 7 ∧ ∀ k, k < 6 → angleAt t k = angleAt s k) ∧
    (∀ a, frameByte t a = frameByte s a) ∧
    t = { s with ang := t.ang, n := t.n, responses := s.responses ++ [⟨.ok, 0x0000⟩] }

/-- 42_frame_codec.md R82: the encoding, the two failures, the success with the 21 bytes it stores (at 0 to 20, every
other index as before), and that a second `ENC.ENCODE` gives the same response and the same bytes. -/
def Obligations.EncEncodeStoresTheFrameOrRefuses : Prop :=
  decode 0x300000 = .ok .encEncode ∧
  (∀ arg : Word, arg ≠ 0 → ∃ e, decode (commandWord 0x30 arg) = .error e) ∧
  (∀ s : State, s.n ≠ 6 → exec .encEncode s = .next { s with
    fv := false, responses := s.responses ++ [⟨.encodingError, (0x01 : Byte) ++ s.n.setWidth 8⟩] }) ∧
  (∀ (s : State) (k : Nat), s.n = 6 → s.rce = true → k < 6 → 1000 < (angleAt s k).toNat →
    (∀ j, j < k → (angleAt s j).toNat ≤ 1000) → exec .encEncode s = .next { s with
      fv := false, responses := s.responses ++ [⟨.encodingError, (0x02 : Byte) ++ BitVec.ofNat 8 k⟩] }) ∧
  (∀ s : State, s.n = 6 → (s.rce = false ∨ ∀ k, k < 6 → (angleAt s k).toNat ≤ 1000) →
    ∃ t f, encodeFrame Config.params (angles s) s.rce = .ok f ∧ exec .encEncode s = .next t ∧
      (∀ i, i < 21 → f[i]? = some (frameByte t i)) ∧ (∀ a, 21 ≤ a → frameByte t a = frameByte s a) ∧
      t = { s with fb := t.fb, fv := true, responses := s.responses ++ [⟨.ok, 0x0000⟩] }) ∧
  (∀ s t : State, exec .encEncode s = .next t → ∃ u r, exec .encEncode t = .next u ∧
    t.responses = s.responses ++ [r] ∧ (∀ a, frameByte u a = frameByte t a) ∧
    u = { t with fb := u.fb, responses := t.responses ++ [r] })

/-- 42_frame_codec.md R83: the index is tested first, then the valid flag; no state is written. -/
def Obligations.FbReadAnswersTheByteOrRefuses : Prop :=
  (∀ i : Byte, decode (0x310000 ||| i.setWidth 24) = .ok (.fbRead i)) ∧
  (∀ arg : Word, arg.extractLsb' 8 8 ≠ (0 : Byte) → ∃ e, decode (commandWord 0x31 arg) = .error e) ∧
  ∀ (i : Byte) (s : State),
    (20 < i.toNat → exec (.fbRead i) s =
      .next { s with responses := s.responses ++ [⟨.indexRange, (0x00 : Byte) ++ i⟩] }) ∧
    (i.toNat ≤ 20 → s.fv = false → exec (.fbRead i) s =
      .next { s with responses := s.responses ++ [⟨.noFrame, 0x0000⟩] }) ∧
    (i.toNat ≤ 20 → s.fv = true → exec (.fbRead i) s =
      .next { s with responses := s.responses ++ [⟨.ok, (frameByte s i.toNat).setWidth 16⟩] })

/-- 43_system.md R90: data bit 0 is `fv`, bits 3 to 1 are `n`, the rest 0, so the data is `2 * n + fv`. -/
def Obligations.StReadAnswersStatus : Prop :=
  decode 0x400000 = .ok .stRead ∧
  (∀ arg : Word, arg ≠ 0 → ∃ e, decode (commandWord 0x40 arg) = .error e) ∧
  ∀ s : State, ∃ d : Word, exec .stRead s = .next { s with responses := s.responses ++ [⟨.ok, d⟩] } ∧
    d.toNat = 2 * s.n.toNat + s.fv.toNat

/-- 43_system.md R91. -/
def Obligations.CtlReadAnswersTheOption : Prop :=
  decode 0x410000 = .ok .ctlRead ∧
  (∀ arg : Word, arg ≠ 0 → ∃ e, decode (commandWord 0x41 arg) = .error e) ∧
  ∀ s : State, exec .ctlRead s =
    .next { s with responses := s.responses ++ [⟨.ok, if s.rce then 0x0001 else 0x0000⟩] }

/-- 43_system.md R92: the option alone is written; the frame, `fv` and the staged vector are not re-examined. -/
def Obligations.CtlWriteSetsTheOptionOnly : Prop :=
  decode 0x420000 = .ok (.ctlWrite false) ∧ decode 0x420001 = .ok (.ctlWrite true) ∧
  (∀ arg : Word, arg.extractLsb' 1 15 ≠ (0 : BitVec 15) → ∃ e, decode (commandWord 0x42 arg) = .error e) ∧
  ∀ (e : Bool) (s : State), exec (.ctlWrite e) s =
    .next { s with rce := e, responses := s.responses ++ [⟨.ok, 0x0000⟩] }

/-! ### The ChecksumEngine -/

/-- 40_checksum_engine.md R60, with its worked example. -/
def Obligations.CrcStepIsEightShifts : Prop :=
  (∀ (c : Word) (b : Byte), crcStep Config.params c b =
    (fun t : Word => if t.getLsbD 0 then (t >>> 1) ^^^ 0xA001 else t >>> 1)^[8] (c ^^^ b.setWidth 16)) ∧
  crcStep Config.params 0xFFFF 0x01 = 0x807E

/-- 40_checksum_engine.md R61, with its example. -/
def Obligations.ChecksumStartsAtTheInitialValue : Prop :=
  (∀ s : List Byte, crc16 Config.params s = s.foldl (crcStep Config.params) 0xFFFF) ∧
  crc16 Config.params [] = 0xFFFF ∧
  crc16 Config.params [0x01, 0x10, 0x05, 0xCE, 0x00, 0x06, 0x0C] = 0x1DF8

/-- 40_checksum_engine.md R62: the table form computes `crc_step`, and the listed table is `T`. -/
def Obligations.TableFormEqualsBitSerialForm : Prop :=
  (∀ (c : Word) (b : Byte), crcStep Config.params c b = crcStepByTable c b) ∧
  (∀ x : Byte, crcTableAt x.toNat = crcStep Config.params 0x0000 x) ∧ crcTable.length = 256

/-- 40_checksum_engine.md R63 (c): the residue of a message followed by its checksum, low byte first, is zero. -/
def Obligations.ResidueOfACheckedMessageIsZero : Prop :=
  ∀ s : List Byte, crc16 Config.params (s ++ [lo8 (crc16 Config.params s), hi8 (crc16 Config.params s)]) = 0x0000

/-- 40_checksum_engine.md R63 (d): `crc_step` is a bijection in the register and injective in the byte, so a single
changed byte always changes the checksum. -/
def Obligations.AChangedByteChangesTheChecksum : Prop :=
  (∀ b : Byte, Function.Bijective (fun c : Word => crcStep Config.params c b)) ∧
  (∀ c : Word, Function.Injective (fun b : Byte => crcStep Config.params c b)) ∧
  ∀ (s t : List Byte) (b b' : Byte), b ≠ b' →
    crc16 Config.params (s ++ b :: t) ≠ crc16 Config.params (s ++ b' :: t)

/-- 40_checksum_engine.md R63 (a), 70_reset_and_hazards.md R123: updates continue the message `crc` already holds. -/
def Obligations.UpdatesContinueTheMessage : Prop :=
  ∀ (s : State) (u m : List Byte), s.crc = crc16 Config.params u →
    ∃ t, runs m.length (issuing s (m.map (fun b => encode (.crcUpdate b)))) = .next t ∧
      t.crc = crc16 Config.params (u ++ m)

/-- 40_checksum_engine.md R67: `CRC.INIT`, then any words with no `CRC.INIT` among them, then `CRC.READ`, ends with
the checksum of the bytes of the `CRC.UPDATE`s among the words; every other word, illegal ones too, may be interleaved
freely, and the state before does not matter. -/
def Obligations.ChecksumIsOfTheBytesUpdated : Prop :=
  ∀ (s : State) (ws : List CmdWord), (∀ w ∈ ws, decode w ≠ .ok .crcInit) →
    ∃ t, runs (ws.length + 2) (issuing s (encode .crcInit :: ws ++ [encode .crcRead])) = .next t ∧
      t.responses.getLast? = some ⟨.ok, crc16 Config.params (ws.filterMap updateByte)⟩

/-! ### The FrameCodec -/

/-- 20_memory.md R22: the two placements of a 16-bit value in two bytes. -/
def Obligations.BytePlacementsOfAHalfword : Prop :=
  ∀ q : Word, ∃ h l : Byte, be16 q = [h, l] ∧ le16 q = [l, h] ∧ q.toNat = 256 * h.toNat + l.toNat

/-- 42_frame_codec.md R80: the count error, the range error at the least offending index, and the frame. -/
def Obligations.EncodeFunctionAnswersAsSpecified : Prop :=
  ∀ (a : List Word) (e : Bool),
    (a.length ≠ 6 → encodeFrame Config.params a e = .error (.count (BitVec.ofNat 8 (min a.length 7)))) ∧
    (∀ k, a.length = 6 → e = true → k < 6 → 1000 < (a.getD k 0).toNat →
      (∀ j, j < k → (a.getD j 0).toNat ≤ 1000) →
      encodeFrame Config.params a e = .error (.range (BitVec.ofNat 8 k))) ∧
    (∀ c, a.length = 6 → (e = false ∨ ∀ v ∈ a, v.toNat ≤ 1000) →
      c = crc16 Config.params
        ([0x01, 0x10, 0x05, 0xCE, 0x00, 0x06, 0x0C] ++ a.flatMap (fun v => [hi8 v, lo8 v])) →
      encodeFrame Config.params a e =
        .ok ([0x01, 0x10, 0x05, 0xCE, 0x00, 0x06, 0x0C] ++ a.flatMap (fun v => [hi8 v, lo8 v]) ++ [lo8 c, hi8 c]))

/-- 30_encoding.md R41: the layout of every frame `encode` produces, index by index. -/
def Obligations.FrameLayoutByIndex : Prop :=
  ∀ (a : List Word) (e : Bool) (f : List Byte), encodeFrame Config.params a e = .ok f →
    f.length = 21 ∧ f.take 7 = [0x01, 0x10, 0x05, 0xCE, 0x00, 0x06, 0x0C] ∧
    (∀ k, k < 6 → f[7 + 2 * k]? = some (hi8 (a.getD k 0)) ∧ f[8 + 2 * k]? = some (lo8 (a.getD k 0))) ∧
    f[19]? = some (lo8 (crc16 Config.params (f.take 19))) ∧ f[20]? = some (hi8 (crc16 Config.params (f.take 19)))

/-- 42_frame_codec.md R84 (b), (g): the checksum of a frame's first 19 bytes is its trailer, low byte first, and the
checksum over all 21 bytes is zero. -/
def Obligations.FrameChecksumRoundTrip : Prop :=
  ∀ (a : List Word) (e : Bool) (f : List Byte), encodeFrame Config.params a e = .ok f →
    crc16 Config.params (f.take 19) = f.getD 20 0 ++ f.getD 19 0 ∧ crc16 Config.params f = 0x0000

/-- 42_frame_codec.md R84 (f): two vectors with the same frame are the same vector. -/
def Obligations.EncodeIsInjective : Prop :=
  ∀ (a b : List Word) (d e : Bool) (f : List Byte),
    encodeFrame Config.params a d = .ok f → encodeFrame Config.params b e = .ok f → a = b

/-- 42_frame_codec.md R85: a vector of six is refused whole, with the option on and an element above 1000, or, with the
option off or no element above 1000, encoded whole: each element is read back from its two payload bytes. -/
def Obligations.NoAngleValueIsChanged : Prop :=
  ∀ (a : List Word) (e : Bool), a.length = 6 →
    (∃ x, encodeFrame Config.params a e = .error x ∧ e = true ∧ ∃ v ∈ a, 1000 < v.toNat) ∨
    (∃ f, encodeFrame Config.params a e = .ok f ∧ (e = false ∨ ∀ v ∈ a, v.toNat ≤ 1000) ∧
      ∀ k, k < 6 → f.getD (7 + 2 * k) 0 ++ f.getD (8 + 2 * k) 0 = a.getD k 0)

/-- 42_frame_codec.md R84 (e), 95_test_vectors.md S6: the golden frame. -/
def Obligations.GoldenFrame : Prop :=
  encodeFrame Config.params [1000, 0, 0, 0, 500, 800] false =
    .ok [0x01, 0x10, 0x05, 0xCE, 0x00, 0x06, 0x0C, 0x03, 0xE8, 0x00, 0x00, 0x00, 0x00, 0x00, 0x00, 0x01, 0xF4, 0x03,
      0x20, 0xF5, 0x33]

/-- 00_scope.md R4: what `ENC.ENCODE` answers and the frame it leaves depend only on the staged vector with its count
and on the option; `crc`, the old frame and everything else may differ. -/
def Obligations.EncodeDependsOnlyOnVectorAndOption : Prop :=
  ∀ s s' : State, s.n = s'.n → s.ang = s'.ang → s.rce = s'.rce →
    ∃ t t' r, exec .encEncode s = .next t ∧ exec .encEncode s' = .next t' ∧
      t.responses = s.responses ++ [r] ∧ t'.responses = s'.responses ++ [r] ∧ t.fv = t'.fv ∧
      (t.fv = true → frameBytes t = frameBytes t')

/-- 41_angle_staging.md R75, R77, 70_reset_and_hazards.md R124: pushes continue from the current count, which
saturates at 7; up to six in all, the vector is the old elements followed by the new ones; from six on the registers
keep what they hold. -/
def Obligations.PushesContinueTheVector : Prop :=
  ∀ (s : State) (a : List Word),
    ∃ t, runs a.length (issuing s (a.map (fun v => encode (.angPush v)))) = .next t ∧
      t.n.toNat = min (s.n.toNat + a.length) 7 ∧
      (s.n.toNat + a.length ≤ 6 → stagedVector t = stagedVector s ++ a) ∧
      (6 ≤ s.n.toNat → t.ang = s.ang)

/-- 30_encoding.md R53, 42_frame_codec.md R80: `ENC.FRAME` computes the source's `encode`, for a vector of any length
and from any state: the frame and `OK`, or the error's data and no frame; `crc` is not disturbed. -/
def Obligations.EncFrameComputesEncode : Prop :=
  ∀ (s : State) (a : List Word),
    ∃ t, runs (a.length + 2)
        (issuing s (encode .angClear :: a.map (fun v => encode (.angPush v)) ++ [encode .encEncode])) = .next t ∧
      t.crc = s.crc ∧
      (∀ f, encodeFrame Config.params a s.rce = .ok f →
        t.responses.getLast? = some ⟨.ok, 0x0000⟩ ∧ t.fv = true ∧ frameBytes t = f) ∧
      (∀ x, encodeFrame Config.params a s.rce = .error x →
        t.responses.getLast? = some ⟨.encodingError, x.data⟩ ∧ t.fv = false)

/-- 30_encoding.md R53, 20_memory.md R24: `FB.DUMP` answers the 21 bytes in wire order and changes nothing else. -/
def Obligations.FrameDumpAnswersTheFrameInWireOrder : Prop :=
  ∀ s : State, s.fv = true →
    runs 21 (issuing s ((List.range 21).map (fun i => encode (.fbRead (BitVec.ofNat 8 i))))) =
      .next { s with
        input := [], responses := s.responses ++ (frameBytes s).map (fun b => ⟨.ok, b.setWidth 16⟩) }

/-! ### The whole machine -/

/-- 20_memory.md R28: the four reads change no state and are idempotent. -/
def Obligations.ReadsHaveNoSideEffect : Prop :=
  ∀ (i : Instr) (s : State), (i = .crcRead ∨ (∃ k, i = .fbRead k) ∨ i = .stRead ∨ i = .ctlRead) →
    ∃ r, exec i s = .next { s with responses := s.responses ++ [r] } ∧
      exec i { s with responses := s.responses ++ [r] } = .next { s with responses := s.responses ++ [r, r] }

/-- 10_state.md section 1, R10 to R15: for every command word, legal or not, each register changes only under the
commands that write it, and a byte of the frame buffer only under `ENC.ENCODE`. -/
def Obligations.OnlyItsWritersChangeARegister : Prop :=
  ∀ (s t : State) (w : CmdWord) (rest : List HostEvent), s.input = .command w :: rest → step s = .next t →
    (decode w ≠ .ok .crcInit → (∀ b, decode w ≠ .ok (.crcUpdate b)) → t.crc = s.crc) ∧
    ((∀ v, decode w ≠ .ok (.angPush v)) → t.ang = s.ang) ∧
    (decode w ≠ .ok .angClear → (∀ v, decode w ≠ .ok (.angPush v)) → t.n = s.n) ∧
    (decode w ≠ .ok .encEncode → t.fv = s.fv ∧ ∀ a, frameByte t a = frameByte s a) ∧
    ((∀ e, decode w ≠ .ok (.ctlWrite e)) → t.rce = s.rce)

/-- 10_state.md R13, 70_reset_and_hazards.md R133: whatever words are issued, with no `ENC.ENCODE` among them, the
frame and its flag stay. -/
def Obligations.FrameStaysUntilTheNextEncode : Prop :=
  ∀ (s : State) (ws : List CmdWord), (∀ w ∈ ws, decode w ≠ .ok .encEncode) →
    ∃ t, runs ws.length (issuing s ws) = .next t ∧ t.fv = s.fv ∧ ∀ a, frameByte t a = frameByte s a

/-- 60_exceptions.md R100: the four exceptions, each exactly when its cause holds, with its data. -/
def Obligations.ExceptionsAreRaisedExactlyByTheirCauses : Prop :=
  ∀ (s t : State) (w : CmdWord) (rest : List HostEvent) (r : Response),
    s.input = .command w :: rest → step s = .next t → t.responses = s.responses ++ [r] →
    (r.status = .encodingError ↔ decode w = .ok .encEncode ∧
      (s.n ≠ 6 ∨ (s.rce = true ∧ ∃ k, k < 6 ∧ 1000 < (angleAt s k).toNat))) ∧
    (r.status = .illegalCommand ↔ ∀ row ∈ opcodeRows, matchesRow w row = false) ∧
    (r.status = .indexRange ↔ ∃ i, decode w = .ok (.fbRead i) ∧ 20 < i.toNat) ∧
    (r.status = .noFrame ↔ ∃ i, decode w = .ok (.fbRead i) ∧ i.toNat ≤ 20 ∧ s.fv = false) ∧
    (r.status = .encodingError →
      (s.n ≠ 6 ∧ r.data = (0x01 : Byte) ++ s.n.setWidth 8) ∨
      (s.n = 6 ∧ ∃ k, k < 6 ∧ 1000 < (angleAt s k).toNat ∧ (∀ j, j < k → (angleAt s j).toNat ≤ 1000) ∧
        r.data = (0x02 : Byte) ++ BitVec.ofNat 8 k)) ∧
    (r.status = .illegalCommand → r.data = (0x00 : Byte) ++ opField w) ∧
    (∀ i, decode w = .ok (.fbRead i) → r.status = .indexRange → r.data = (0x00 : Byte) ++ i) ∧
    (r.status = .noFrame → r.data = 0x0000)

/-- 60_exceptions.md R108: every exception is precise. The command that raised it has written nothing but its
response, with the one exception that a failing `ENC.ENCODE` writes `fv <- 0`. -/
def Obligations.ExceptionsArePrecise : Prop :=
  ∀ (s t : State) (w : CmdWord) (rest : List HostEvent) (r : Response),
    s.input = .command w :: rest → step s = .next t → t.responses = s.responses ++ [r] → r.status ≠ .ok →
    t = { s with
      input := rest, fv := if decode w = .ok .encEncode then false else s.fv, responses := s.responses ++ [r] }

/-- The invariant holds after reset. -/
def Obligations.ResetMeetsTheInvariant : Prop := Inv State.reset

/-- 60_exceptions.md R113, 10_state.md R14: every step keeps the invariant: the frame buffer's canonical form, and
that `fv = 1` means a complete frame with a right checksum. -/
def Obligations.StepKeepsTheInvariant : Prop :=
  ∀ s t : State, Inv s → step s = .next t → Inv t

/-- 10_state.md R19: no command can observe a value that nothing has written. Two states that differ only in such
values take steps with the same responses, for ever. -/
def Obligations.UnwrittenValuesAreUnobservable : Prop :=
  ∀ s t s' : State, SameToHost s t → step s = .next s' → ∃ t', step t = .next t' ∧ SameToHost s' t'

/-! ### The assembler -/

/-- 30_encoding.md R53: the three pseudo-instructions and their fixed expansions. -/
def Obligations.PseudoInstructionsExpand : Prop :=
  (∀ bs : List Byte, assemble ⟨.crcCompute, bs.map BitVec.toNat⟩ =
    .ok (encode .crcInit :: bs.map (fun b => encode (.crcUpdate b)) ++ [encode .crcRead])) ∧
  (∀ vs : List Word, assemble ⟨.encFrame, vs.map BitVec.toNat⟩ =
    .ok (encode .angClear :: vs.map (fun v => encode (.angPush v)) ++ [encode .encEncode])) ∧
  assemble ⟨.fbDump, []⟩ = .ok ((List.range 21).map (fun i => encode (.fbRead (BitVec.ofNat 8 i))))

/-- 30_encoding.md R52: an operand that fits its format is the operand of the command; any other is refused, never
truncated. -/
def Obligations.AssemblerNeverTruncates : Prop :=
  (∀ b : Byte, assemble ⟨.crcUpdate, [b.toNat]⟩ = .ok [encode (.crcUpdate b)] ∧
    assemble ⟨.fbRead, [b.toNat]⟩ = .ok [encode (.fbRead b)]) ∧
  (∀ v : Word, assemble ⟨.angPush, [v.toNat]⟩ = .ok [encode (.angPush v)]) ∧
  (∀ e : Bool, assemble ⟨.ctlWrite, [e.toNat]⟩ = .ok [encode (.ctlWrite e)]) ∧
  (∀ x : Nat, 255 < x → assemble ⟨.crcUpdate, [x]⟩ = .error .operandDoesNotFit ∧
    assemble ⟨.fbRead, [x]⟩ = .error .operandDoesNotFit) ∧
  (∀ x : Nat, 65535 < x → assemble ⟨.angPush, [x]⟩ = .error .operandDoesNotFit) ∧
  (∀ x : Nat, 1 < x → assemble ⟨.ctlWrite, [x]⟩ = .error .operandDoesNotFit)
end

