-- ==== Sys2Proof/Laws/State.lean ====
section
/-! SUPPORT. One lemma per field per update of the state, so that no proof unfolds a record update; the parameters'
values; and the state after reset, field by field. -/

namespace Sys2Proof.Machine

section setCrc_fields
variable (v : Word) (s : State)
@[simp] theorem setCrc_crc : (setCrc v s).crc = v := rfl
@[simp] theorem setCrc_ang : (setCrc v s).ang = s.ang := rfl
@[simp] theorem setCrc_n : (setCrc v s).n = s.n := rfl
@[simp] theorem setCrc_fb : (setCrc v s).fb = s.fb := rfl
@[simp] theorem setCrc_fv : (setCrc v s).fv = s.fv := rfl
@[simp] theorem setCrc_rce : (setCrc v s).rce = s.rce := rfl
@[simp] theorem setCrc_input : (setCrc v s).input = s.input := rfl
@[simp] theorem setCrc_responses : (setCrc v s).responses = s.responses := rfl
@[simp] theorem setCrc_resets : (setCrc v s).resets = s.resets := rfl
end setCrc_fields

section setCount_fields
variable (v : BitVec 3) (s : State)
@[simp] theorem setCount_crc : (setCount v s).crc = s.crc := rfl
@[simp] theorem setCount_ang : (setCount v s).ang = s.ang := rfl
@[simp] theorem setCount_n : (setCount v s).n = v := rfl
@[simp] theorem setCount_fb : (setCount v s).fb = s.fb := rfl
@[simp] theorem setCount_fv : (setCount v s).fv = s.fv := rfl
@[simp] theorem setCount_rce : (setCount v s).rce = s.rce := rfl
@[simp] theorem setCount_input : (setCount v s).input = s.input := rfl
@[simp] theorem setCount_responses : (setCount v s).responses = s.responses := rfl
@[simp] theorem setCount_resets : (setCount v s).resets = s.resets := rfl
end setCount_fields

section setAngle_fields
variable (k : Nat) (v : Word) (s : State)
@[simp] theorem setAngle_crc : (setAngle k v s).crc = s.crc := rfl
@[simp] theorem setAngle_ang : (setAngle k v s).ang = s.ang.setIfInBounds k v := rfl
@[simp] theorem setAngle_n : (setAngle k v s).n = s.n := rfl
@[simp] theorem setAngle_fb : (setAngle k v s).fb = s.fb := rfl
@[simp] theorem setAngle_fv : (setAngle k v s).fv = s.fv := rfl
@[simp] theorem setAngle_rce : (setAngle k v s).rce = s.rce := rfl
@[simp] theorem setAngle_input : (setAngle k v s).input = s.input := rfl
@[simp] theorem setAngle_responses : (setAngle k v s).responses = s.responses := rfl
@[simp] theorem setAngle_resets : (setAngle k v s).resets = s.resets := rfl
end setAngle_fields

section setRce_fields
variable (e : Bool) (s : State)
@[simp] theorem setRce_crc : (setRce e s).crc = s.crc := rfl
@[simp] theorem setRce_ang : (setRce e s).ang = s.ang := rfl
@[simp] theorem setRce_n : (setRce e s).n = s.n := rfl
@[simp] theorem setRce_fb : (setRce e s).fb = s.fb := rfl
@[simp] theorem setRce_fv : (setRce e s).fv = s.fv := rfl
@[simp] theorem setRce_rce : (setRce e s).rce = e := rfl
@[simp] theorem setRce_input : (setRce e s).input = s.input := rfl
@[simp] theorem setRce_responses : (setRce e s).responses = s.responses := rfl
@[simp] theorem setRce_resets : (setRce e s).resets = s.resets := rfl
end setRce_fields

section setFrameValid_fields
variable (e : Bool) (s : State)
@[simp] theorem setFrameValid_crc : (setFrameValid e s).crc = s.crc := rfl
@[simp] theorem setFrameValid_ang : (setFrameValid e s).ang = s.ang := rfl
@[simp] theorem setFrameValid_n : (setFrameValid e s).n = s.n := rfl
@[simp] theorem setFrameValid_fb : (setFrameValid e s).fb = s.fb := rfl
@[simp] theorem setFrameValid_fv : (setFrameValid e s).fv = e := rfl
@[simp] theorem setFrameValid_rce : (setFrameValid e s).rce = s.rce := rfl
@[simp] theorem setFrameValid_input : (setFrameValid e s).input = s.input := rfl
@[simp] theorem setFrameValid_responses : (setFrameValid e s).responses = s.responses := rfl
@[simp] theorem setFrameValid_resets : (setFrameValid e s).resets = s.resets := rfl
end setFrameValid_fields

section storeFrame_fields
variable (f : List Byte) (s : State)
@[simp] theorem storeFrame_crc : (storeFrame f s).crc = s.crc := rfl
@[simp] theorem storeFrame_ang : (storeFrame f s).ang = s.ang := rfl
@[simp] theorem storeFrame_n : (storeFrame f s).n = s.n := rfl
@[simp] theorem storeFrame_fb : (storeFrame f s).fb = s.fb.writeBytes 0 f := rfl
@[simp] theorem storeFrame_fv : (storeFrame f s).fv = true := rfl
@[simp] theorem storeFrame_rce : (storeFrame f s).rce = s.rce := rfl
@[simp] theorem storeFrame_input : (storeFrame f s).input = s.input := rfl
@[simp] theorem storeFrame_responses : (storeFrame f s).responses = s.responses := rfl
@[simp] theorem storeFrame_resets : (storeFrame f s).resets = s.resets := rfl
end storeFrame_fields

section respond_fields
variable (st : Status) (d : Word) (s : State)
@[simp] theorem respond_crc : (respond st d s).crc = s.crc := rfl
@[simp] theorem respond_ang : (respond st d s).ang = s.ang := rfl
@[simp] theorem respond_n : (respond st d s).n = s.n := rfl
@[simp] theorem respond_fb : (respond st d s).fb = s.fb := rfl
@[simp] theorem respond_fv : (respond st d s).fv = s.fv := rfl
@[simp] theorem respond_rce : (respond st d s).rce = s.rce := rfl
@[simp] theorem respond_input : (respond st d s).input = s.input := rfl
@[simp] theorem respond_responses : (respond st d s).responses = s.responses ++ [⟨st, d⟩] := rfl
@[simp] theorem respond_resets : (respond st d s).resets = s.resets := rfl
end respond_fields

section raise_fields
variable (x : BlockException) (s : State)
@[simp] theorem raise_crc : (raise x s).crc = s.crc := rfl
@[simp] theorem raise_ang : (raise x s).ang = s.ang := rfl
@[simp] theorem raise_n : (raise x s).n = s.n := rfl
@[simp] theorem raise_fb : (raise x s).fb = s.fb := rfl
@[simp] theorem raise_fv : (raise x s).fv = s.fv := rfl
@[simp] theorem raise_rce : (raise x s).rce = s.rce := rfl
@[simp] theorem raise_input : (raise x s).input = s.input := rfl
@[simp] theorem raise_responses : (raise x s).responses = s.responses ++ [⟨x.status, x.data⟩] := rfl
@[simp] theorem raise_resets : (raise x s).resets = s.resets := rfl
end raise_fields

section illegalWord_fields
variable (w : CmdWord) (s : State)
@[simp] theorem illegalWord_crc : (illegalWord w s).crc = s.crc := rfl
@[simp] theorem illegalWord_ang : (illegalWord w s).ang = s.ang := rfl
@[simp] theorem illegalWord_n : (illegalWord w s).n = s.n := rfl
@[simp] theorem illegalWord_fb : (illegalWord w s).fb = s.fb := rfl
@[simp] theorem illegalWord_fv : (illegalWord w s).fv = s.fv := rfl
@[simp] theorem illegalWord_rce : (illegalWord w s).rce = s.rce := rfl
@[simp] theorem illegalWord_input : (illegalWord w s).input = s.input := rfl
@[simp] theorem illegalWord_responses : (illegalWord w s).responses = s.responses ++ [⟨.illegalCommand, (0x00 : Byte) ++ opField w⟩] := rfl
@[simp] theorem illegalWord_resets : (illegalWord w s).resets = s.resets := rfl
end illegalWord_fields

section setInput_fields
variable (es : List HostEvent) (s : State)
@[simp] theorem setInput_crc : (setInput es s).crc = s.crc := rfl
@[simp] theorem setInput_ang : (setInput es s).ang = s.ang := rfl
@[simp] theorem setInput_n : (setInput es s).n = s.n := rfl
@[simp] theorem setInput_fb : (setInput es s).fb = s.fb := rfl
@[simp] theorem setInput_fv : (setInput es s).fv = s.fv := rfl
@[simp] theorem setInput_rce : (setInput es s).rce = s.rce := rfl
@[simp] theorem setInput_input : (setInput es s).input = es := rfl
@[simp] theorem setInput_responses : (setInput es s).responses = s.responses := rfl
@[simp] theorem setInput_resets : (setInput es s).resets = s.resets := rfl
end setInput_fields

section applyReset_fields
variable (s : State)
@[simp] theorem applyReset_crc : (applyReset s).crc = 0xFFFF := rfl
@[simp] theorem applyReset_ang : (applyReset s).ang = angAfterReset (s.resets + 1) := rfl
@[simp] theorem applyReset_n : (applyReset s).n = 0 := rfl
@[simp] theorem applyReset_fb : (applyReset s).fb = [] := rfl
@[simp] theorem applyReset_fv : (applyReset s).fv = false := rfl
@[simp] theorem applyReset_rce : (applyReset s).rce = false := rfl
@[simp] theorem applyReset_input : (applyReset s).input = s.input := rfl
@[simp] theorem applyReset_responses : (applyReset s).responses = s.responses := rfl
@[simp] theorem applyReset_resets : (applyReset s).resets = s.resets + 1 := rfl
end applyReset_fields

section pushAngle_fields
variable (v : Word) (s : State)
@[simp] theorem pushAngle_crc : (pushAngle v s).crc = s.crc := by
  unfold pushAngle; split <;> [rfl; (split <;> rfl)]
@[simp] theorem pushAngle_fb : (pushAngle v s).fb = s.fb := by
  unfold pushAngle; split <;> [rfl; (split <;> rfl)]
@[simp] theorem pushAngle_fv : (pushAngle v s).fv = s.fv := by
  unfold pushAngle; split <;> [rfl; (split <;> rfl)]
@[simp] theorem pushAngle_rce : (pushAngle v s).rce = s.rce := by
  unfold pushAngle; split <;> [rfl; (split <;> rfl)]
@[simp] theorem pushAngle_input : (pushAngle v s).input = s.input := by
  unfold pushAngle; split <;> [rfl; (split <;> rfl)]
@[simp] theorem pushAngle_responses : (pushAngle v s).responses = s.responses := by
  unfold pushAngle; split <;> [rfl; (split <;> rfl)]
@[simp] theorem pushAngle_resets : (pushAngle v s).resets = s.resets := by
  unfold pushAngle; split <;> [rfl; (split <;> rfl)]
end pushAngle_fields

@[simp] theorem params_crcPoly : Config.params.crcPoly = 0xA001 := rfl
@[simp] theorem params_crcInit : Config.params.crcInit = 0xFFFF := rfl
@[simp] theorem params_crcXorOut : Config.params.crcXorOut = 0x0000 := rfl
@[simp] theorem params_crcLsbFirst : Config.params.crcLsbFirst = true := rfl
@[simp] theorem params_devAddr : Config.params.devAddr = 0x01 := rfl
@[simp] theorem params_funcCode : Config.params.funcCode = 0x10 := rfl
@[simp] theorem params_regStart : Config.params.regStart = 0x05CE := rfl
@[simp] theorem params_regCount : Config.params.regCount = 0x0006 := rfl
@[simp] theorem params_byteCount : Config.params.byteCount = 0x0C := rfl
@[simp] theorem params_nAxes : Config.params.nAxes = 6 := rfl
@[simp] theorem params_hdrLen : Config.params.hdrLen = 7 := rfl
@[simp] theorem params_payloadLen : Config.params.payloadLen = 12 := rfl
@[simp] theorem params_crcLen : Config.params.crcLen = 2 := rfl
@[simp] theorem params_frameLen : Config.params.frameLen = 21 := rfl
@[simp] theorem params_angleMax : Config.params.angleMax = 1000 := rfl
@[simp] theorem params_angleMin : Config.params.angleMin = 0 := rfl
@[simp] theorem params_rceReset : Config.params.rceReset = false := rfl

@[simp] theorem reset_crc : State.reset.crc = 0xFFFF := rfl
@[simp] theorem reset_n : State.reset.n = 0 := rfl
@[simp] theorem reset_fb : State.reset.fb = [] := rfl
@[simp] theorem reset_fv : State.reset.fv = false := rfl
@[simp] theorem reset_rce : State.reset.rce = false := rfl
@[simp] theorem reset_input : State.reset.input = [] := rfl
@[simp] theorem reset_responses : State.reset.responses = [] := rfl

/-- Raising an exception is answering with its status and data, and nothing more (60_exceptions.md R108). -/
theorem raise_eq_respond (x : BlockException) (s : State) : raise x s = respond x.status x.data s := rfl

/-- A word that is no command only adds its response (30_encoding.md R50). -/
theorem illegalWord_eq_respond (w : CmdWord) (s : State) :
    illegalWord w s = respond .illegalCommand ((0x00 : Byte) ++ opField w) s := rfl

/-- The three cases of a push (41_angle_staging.md R77). -/
theorem pushAngle_cases (v : Word) (s : State) :
    (s.n.toNat < 6 ∧ pushAngle v s = setCount (s.n + 1) (setAngle s.n.toNat v s)) ∨
      (s.n.toNat = 6 ∧ pushAngle v s = setCount 7 s) ∨ (s.n.toNat = 7 ∧ pushAngle v s = s) := by
  have bound := s.n.isLt
  by_cases below : s.n.toNat < 6
  · exact .inl ⟨below, by simp [pushAngle, below]⟩
  by_cases six : s.n.toNat = 6
  · exact .inr (.inl ⟨six, by simp [pushAngle, six]⟩)
  · exact .inr (.inr ⟨by omega, by simp [pushAngle, below, six]⟩)

end Sys2Proof.Machine
end

