-- ==== Sys2Proof/Laws/Checksum.lean ====
section
/-! SUPPORT. The checksum over a sequence of bytes, one byte at a time (40_checksum_engine.md R61). -/

namespace Sys2Proof.Machine

@[simp] theorem crcOver_nil (p : Params) (c : Word) : crcOver p c [] = c := rfl

@[simp] theorem crcOver_cons (p : Params) (c : Word) (b : Byte) (s : List Byte) :
    crcOver p c (b :: s) = crcOver p (crcStep p c b) s := rfl

theorem crcOver_append (p : Params) (c : Word) (s t : List Byte) :
    crcOver p c (s ++ t) = crcOver p (crcOver p c s) t := by
  simp [crcOver]

/-- On this hardware nothing is done to the register at the end: "no final XOR". -/
theorem crc16_eq_crcOver (s : List Byte) : crc16 Config.params s = crcOver Config.params 0xFFFF s := by
  simp [crc16]

theorem crcStep_params (c : Word) (b : Byte) :
    crcStep Config.params c b = crcShifts Config.params 8 (c ^^^ zext16 b) := by
  simp [crcStep, crcByteOrder]

end Sys2Proof.Machine
end

