-- ==== Sys2Proof/Laws/Decode.lean ====
section
/-! SUPPORT. The fields of a command word and the operand forms (30_encoding.md R47, R48). -/

namespace Sys2Proof

theorem commandWord_toNat (op : Byte) (arg : Word) : (commandWord op arg).toNat = op.toNat * 65536 + arg.toNat := by
  have low := arg.isLt
  have shifted : op.toNat <<< 16 ||| arg.toNat = op.toNat <<< 16 + arg.toNat :=
    (Nat.shiftLeft_add_eq_or_of_lt (by omega) _).symm
  show (op ++ arg).toNat = _
  rw [BitVec.toNat_append, shifted, Nat.shiftLeft_eq]

@[simp] theorem opField_commandWord (op : Byte) (arg : Word) : opField (commandWord op arg) = op := by
  apply BitVec.eq_of_toNat_eq
  have low := arg.isLt
  have high := op.isLt
  rw [opField, BitVec.extractLsb'_toNat, commandWord_toNat, Nat.shiftRight_eq_div_pow]
  omega

@[simp] theorem argField_commandWord (op : Byte) (arg : Word) : argField (commandWord op arg) = arg := by
  apply BitVec.eq_of_toNat_eq
  have low := arg.isLt
  rw [argField, BitVec.extractLsb'_toNat, commandWord_toNat, Nat.shiftRight_zero]
  omega

/-- A command word is its opcode and its argument. -/
theorem commandWord_fields (w : CmdWord) : commandWord (opField w) (argField w) = w := by
  apply BitVec.eq_of_toNat_eq
  have bound := w.isLt
  rw [commandWord_toNat, opField, argField, BitVec.extractLsb'_toNat, BitVec.extractLsb'_toNat,
    Nat.shiftRight_eq_div_pow, Nat.shiftRight_zero]
  omega

theorem decode_commandWord (op : Byte) (arg : Word) : decode (commandWord op arg) = decodeFields op arg := by
  simp [decode]

/-- A byte operand reads back from its argument (format B). -/
@[simp] theorem byteArg_low (b : Byte) : (byteArg b).extractLsb' 0 8 = b := by
  ext i hi
  have wide : i < 16 := by omega
  simp [byteArg, hi, wide]

/-- A byte operand leaves the must-be-zero bits zero (format B). -/
@[simp] theorem byteArg_high (b : Byte) : (byteArg b).extractLsb' 8 8 = (0 : Byte) := by
  ext i hi
  simp [byteArg]

/-- A one-bit operand reads back from its argument, with the must-be-zero bits zero (format C). -/
@[simp] theorem bitArg_low (e : Bool) : (bitArg e).getLsbD 0 = e := by
  cases e <;> rfl

@[simp] theorem bitArg_getElem (e : Bool) : (bitArg e)[0] = e := by
  cases e <;> rfl

@[simp] theorem bitArg_high (e : Bool) : (bitArg e).extractLsb' 1 15 = (0 : BitVec 15) := by
  cases e <;> rfl

/-- Operands are typed by their width, so every command is well formed (30_encoding.md R48). -/
theorem Instr.wf_eq_true (i : Instr) : i.wf = true := by
  cases i with
  | crcUpdate b => simpa [Instr.wf] using b.isLt
  | angPush v => simpa [Instr.wf] using v.isLt
  | fbRead k => simpa [Instr.wf] using k.isLt
  | ctlWrite e => cases e <;> rfl
  | _ => rfl

end Sys2Proof
end

