-- ==== Sys2Proof/Laws/Memory.lean ====
section
/-! SUPPORT. The frame buffer's laws: a byte written is the byte read, every other index is left alone, and the
canonical form is kept. -/

namespace Sys2Proof.Machine

@[simp] theorem Memory.lookup_nil (a : Nat) : Memory.lookup [] a = none := rfl

theorem Memory.lookup_cons (k : Nat) (b : Byte) (m : Memory) (a : Nat) :
    Memory.lookup ((k, b) :: m) a = if k = a then some b else m.lookup a := rfl

/-- A read after a write to the same index gives the byte written. -/
@[simp] theorem Memory.lookup_write_self (m : Memory) (a : Nat) (v : Byte) : (m.write a v).lookup a = some v := by
  induction m with
  | nil => simp [Memory.write, Memory.lookup]
  | cons c m ih =>
    obtain ⟨k, b⟩ := c
    unfold Memory.write
    split
    · next lt => rw [Memory.lookup_cons, if_neg (by omega), ih]
    · split <;> simp [Memory.lookup_cons]

/-- A write leaves every other index alone. -/
theorem Memory.lookup_write_of_ne (m : Memory) (v : Byte) {a x : Nat} (ne : x ≠ a) :
    (m.write a v).lookup x = m.lookup x := by
  induction m with
  | nil => simp [Memory.write, Memory.lookup, ne.symm]
  | cons c m ih =>
    obtain ⟨k, b⟩ := c
    unfold Memory.write
    split
    · rw [Memory.lookup_cons, Memory.lookup_cons, ih]
    · split
      · next _ eq => subst eq; simp [Memory.lookup_cons, ne.symm]
      · rw [Memory.lookup_cons, if_neg ne.symm]

/-- What consecutive bytes written from `a` on leave at every index. -/
theorem Memory.lookup_writeBytes (bs : List Byte) (m : Memory) (a x : Nat) :
    (m.writeBytes a bs).lookup x =
      if a ≤ x ∧ x < a + bs.length then bs[x - a]? else m.lookup x := by
  induction bs generalizing m a with
  | nil => simp [Memory.writeBytes]
  | cons b bs ih =>
    rw [Memory.writeBytes, ih]
    rcases Nat.lt_trichotomy x a with lt | rfl | gt
    · rw [if_neg (by omega), if_neg (by omega), Memory.lookup_write_of_ne _ _ (by omega)]
    · simp
    · have shift : x - a = (x - (a + 1)) + 1 := by omega
      by_cases inside : x < a + 1 + bs.length
      · rw [if_pos ⟨by omega, inside⟩, if_pos ⟨by omega, by simp; omega⟩, shift, List.getElem?_cons_succ]
      · rw [if_neg (by omega), if_neg (by simp; omega), Memory.lookup_write_of_ne _ _ (by omega)]

theorem Memory.risesFrom_mono {a b : Nat} (le : a ≤ b) {m : Memory} (h : m.risesFrom b = true) :
    m.risesFrom a = true := by
  cases m with
  | nil => rfl
  | cons c m => simp [Memory.risesFrom] at h ⊢; exact ⟨by omega, h.2⟩

theorem Memory.risesFrom_write {m : Memory} {j a : Nat} (v : Byte) (h : m.risesFrom j = true) (le : j ≤ a) :
    (m.write a v).risesFrom j = true := by
  induction m generalizing j with
  | nil => simp [Memory.write, Memory.risesFrom, le]
  | cons c m ih =>
    obtain ⟨k, b⟩ := c
    simp only [Memory.risesFrom, Bool.and_eq_true, decide_eq_true_eq] at h
    unfold Memory.write
    split
    · next lt => simp [Memory.risesFrom, h.1, ih h.2 (by omega)]
    · split
      · next _ eq => subst eq; simp [Memory.risesFrom, h.1, h.2]
      · next nlt ne =>
        simp [Memory.risesFrom, le, h.2]
        omega

theorem Memory.mem_write {m : Memory} {a : Nat} {v : Byte} {c : Host.Cell} (h : c ∈ m.write a v) :
    c = (a, v) ∨ c ∈ m := by
  induction m with
  | nil => simpa [Memory.write] using h
  | cons d m ih =>
    obtain ⟨k, b⟩ := d
    unfold Memory.write at h
    split at h
    · rcases List.mem_cons.1 h with rfl | h
      · simp
      · rcases ih h with h | h <;> simp [h]
    · split at h
      · rcases List.mem_cons.1 h with h | h <;> simp [h]
      · simpa using h

/-- Writing a byte at an index of `FB` keeps the canonical form. -/
theorem Memory.wf_write {m : Memory} {a : Nat} (v : Byte) (h : m.wf = true) (lt : a < 21) :
    (m.write a v).wf = true := by
  simp only [Memory.wf, Bool.and_eq_true, List.all_eq_true, params_frameLen] at h ⊢
  refine ⟨Memory.risesFrom_write v h.1 (Nat.zero_le _), fun c mem => ?_⟩
  rcases Memory.mem_write mem with rfl | mem
  · exact decide_eq_true lt
  · exact h.2 c mem

/-- Writing bytes inside `FB` keeps the canonical form. -/
theorem Memory.wf_writeBytes {bs : List Byte} {m : Memory} {a : Nat} (h : m.wf = true) (fits : a + bs.length ≤ 21) :
    (m.writeBytes a bs).wf = true := by
  induction bs generalizing m a with
  | nil => exact h
  | cons b bs ih =>
    simp only [List.length_cons] at fits
    exact ih (Memory.wf_write b h (by omega)) (by omega)

theorem reset_memory_wf : State.reset.fb.wf = true := rfl

/-- What `fb[i]` holds after a frame of bytes is stored. -/
theorem frameByte_storeFrame (f : List Byte) (s : State) (i : Nat) :
    frameByte (storeFrame f s) i = if h : i < f.length then f[i] else frameByte s i := by
  unfold frameByte
  rw [storeFrame_fb, storeFrame_resets, Memory.lookup_writeBytes]
  split <;> split <;> first | omega | simp_all

/-- A stored frame of 21 bytes is what the buffer then holds. -/
theorem frameBytes_storeFrame {f : List Byte} (len : f.length = 21) (s : State) : frameBytes (storeFrame f s) = f := by
  apply List.ext_getElem
  · simp [frameBytes, len]
  · intro i h1 h2
    simp [frameBytes, frameByte_storeFrame, h2]

/-- The bytes of the buffer depend on `fb` and on which free values the last reset left. -/
theorem frameByte_congr {s t : State} (fb : s.fb = t.fb) (resets : s.resets = t.resets) (i : Nat) :
    frameByte s i = frameByte t i := by
  simp [frameByte, fb, resets]

theorem frameBytes_congr {s t : State} (fb : s.fb = t.fb) (resets : s.resets = t.resets) :
    frameBytes s = frameBytes t := by
  simp [frameBytes, funext (frameByte_congr fb resets)]

/-! Every update but `storeFrame` and `applyReset` leaves every byte of the buffer as it was. -/

section frame_kept
variable (s : State)
@[simp] theorem frameByte_setCrc (v : Word) (i : Nat) : frameByte (setCrc v s) i = frameByte s i := rfl
@[simp] theorem frameBytes_setCrc (v : Word) : frameBytes (setCrc v s) = frameBytes s := rfl
@[simp] theorem frameByte_setCount (v : BitVec 3) (i : Nat) : frameByte (setCount v s) i = frameByte s i := rfl
@[simp] theorem frameBytes_setCount (v : BitVec 3) : frameBytes (setCount v s) = frameBytes s := rfl
@[simp] theorem frameByte_setAngle (k : Nat) (v : Word) (i : Nat) : frameByte (setAngle k v s) i = frameByte s i := rfl
@[simp] theorem frameBytes_setAngle (k : Nat) (v : Word) : frameBytes (setAngle k v s) = frameBytes s := rfl
@[simp] theorem frameByte_setRce (e : Bool) (i : Nat) : frameByte (setRce e s) i = frameByte s i := rfl
@[simp] theorem frameBytes_setRce (e : Bool) : frameBytes (setRce e s) = frameBytes s := rfl
@[simp] theorem frameByte_setFrameValid (e : Bool) (i : Nat) : frameByte (setFrameValid e s) i = frameByte s i := rfl
@[simp] theorem frameBytes_setFrameValid (e : Bool) : frameBytes (setFrameValid e s) = frameBytes s := rfl
@[simp] theorem frameByte_respond (st : Status) (d : Word) (i : Nat) : frameByte (respond st d s) i = frameByte s i := rfl
@[simp] theorem frameBytes_respond (st : Status) (d : Word) : frameBytes (respond st d s) = frameBytes s := rfl
@[simp] theorem frameByte_raise (x : BlockException) (i : Nat) : frameByte (raise x s) i = frameByte s i := rfl
@[simp] theorem frameBytes_raise (x : BlockException) : frameBytes (raise x s) = frameBytes s := rfl
@[simp] theorem frameByte_illegalWord (w : CmdWord) (i : Nat) : frameByte (illegalWord w s) i = frameByte s i := rfl
@[simp] theorem frameBytes_illegalWord (w : CmdWord) : frameBytes (illegalWord w s) = frameBytes s := rfl
@[simp] theorem frameByte_setInput (es : List HostEvent) (i : Nat) : frameByte (setInput es s) i = frameByte s i := rfl
@[simp] theorem frameBytes_setInput (es : List HostEvent) : frameBytes (setInput es s) = frameBytes s := rfl
@[simp] theorem frameByte_pushAngle (v : Word) (i : Nat) : frameByte (pushAngle v s) i = frameByte s i :=
  frameByte_congr (pushAngle_fb v s) (pushAngle_resets v s) i
@[simp] theorem frameBytes_pushAngle (v : Word) : frameBytes (pushAngle v s) = frameBytes s :=
  frameBytes_congr (pushAngle_fb v s) (pushAngle_resets v s)
end frame_kept

theorem frameBytes_getElem {s : State} {i : Nat} (lt : i < 21) : (frameBytes s)[i]? = some (frameByte s i) := by
  simp [frameBytes, lt]

end Sys2Proof.Machine
end

