-- ==== Sys2Proof/Laws/Frame.lean ====
section
/-! SUPPORT. The parts of a CommandFrame and their lengths, and what `encodeFrame` can answer
(30_encoding.md R41 to R44, 42_frame_codec.md R80). -/

namespace Sys2Proof.Machine

@[simp] theorem be16_length (q : Word) : (be16 q).length = 2 := rfl

@[simp] theorem le16_length (q : Word) : (le16 q).length = 2 := rfl

theorem frameHeader_params : frameHeader Config.params = [0x01, 0x10, 0x05, 0xCE, 0x00, 0x06, 0x0C] := rfl

@[simp] theorem frameHeader_length (p : Params) : (frameHeader p).length = 7 := rfl

@[simp] theorem framePayload_length (a : List Word) : (framePayload a).length = 2 * a.length := by
  induction a with
  | nil => rfl
  | cons v a ih =>
    have split : framePayload (v :: a) = be16 v ++ framePayload a := rfl
    simp [split, ih]
    omega

@[simp] theorem frameOf_length (p : Params) (a : List Word) : (frameOf p a).length = 9 + 2 * a.length := by
  simp [frameOf]
  omega

theorem frameOf_eq_append (p : Params) (a : List Word) :
    frameOf p a = (frameHeader p ++ framePayload a) ++ le16 (crc16 p (frameHeader p ++ framePayload a)) := rfl

/-- The bytes a frame of six angles has before its trailer. -/
theorem frameOf_take_nineteen (p : Params) {a : List Word} (six : a.length = 6) :
    (frameOf p a).take 19 = frameHeader p ++ framePayload a := by
  rw [frameOf_eq_append, List.take_left' (by simp [six])]

/-- The trailer of a frame of six angles. -/
theorem frameOf_drop_nineteen (p : Params) {a : List Word} (six : a.length = 6) :
    (frameOf p a).drop 19 = le16 (crc16 p (frameHeader p ++ framePayload a)) := by
  rw [frameOf_eq_append, List.drop_left' (by simp [six])]

/-- The header of a frame. -/
theorem frameOf_take_seven (p : Params) (a : List Word) : (frameOf p a).take 7 = frameHeader p := by
  rw [frameOf, List.append_assoc, List.take_left' (frameHeader_length p)]

/-- A frame of six angles is a CommandFrame with a right checksum (30_encoding.md R42, R44). -/
theorem isCommandFrame_frameOf {a : List Word} (six : a.length = 6) :
    isCommandFrame Config.params (frameOf Config.params a) = true := by
  rw [isCommandFrame, Bool.and_eq_true, Bool.and_eq_true, decide_eq_true_eq, decide_eq_true_eq, decide_eq_true_eq]
  refine ⟨⟨by simp [six], frameOf_take_seven _ a⟩, ?_⟩
  show List.drop 19 _ = le16 (crc16 _ (List.take 19 _))
  rw [frameOf_drop_nineteen _ six, frameOf_take_nineteen _ six]

@[simp] theorem angles_length (s : State) : (angles s).length = 6 := by simp [angles]

/-- What `encodeFrame` can answer (42_frame_codec.md R80). -/
theorem encodeFrame_cases (a : List Word) (e : Bool) :
    (a.length ≠ 6 ∧ encodeFrame Config.params a e = .error (.count (BitVec.ofNat 8 (min a.length 7)))) ∨
      (a.length = 6 ∧ e = true ∧ ∃ k, firstOutOfDomain Config.params a = some k ∧
        encodeFrame Config.params a e = .error (.range (BitVec.ofNat 8 k))) ∨
      (a.length = 6 ∧ (e = false ∨ firstOutOfDomain Config.params a = none) ∧
        encodeFrame Config.params a e = .ok (frameOf Config.params a)) := by
  by_cases six : a.length = 6
  · cases e with
    | false => exact .inr (.inr ⟨six, by simp, by simp [encodeFrame, six]⟩)
    | true =>
      cases first : firstOutOfDomain Config.params a with
      | none => exact .inr (.inr ⟨six, by simp, by simp [encodeFrame, six, first]⟩)
      | some k => exact .inr (.inl ⟨six, rfl, k, rfl, by simp [encodeFrame, six, first]⟩)
  · exact .inl ⟨six, by simp [encodeFrame, six]⟩

/-- An element is outside the domain exactly when it exceeds 1000: the lower bound is met by every unsigned value
(42_frame_codec.md R81). -/
theorem outOfDomain_params (v : Word) : outOfDomain Config.params v = decide (1000 < v.toNat) := by
  simp [outOfDomain, BitVec.lt_def]

/-- The index the range check reports is the least one whose element exceeds 1000 (42_frame_codec.md R80). -/
theorem firstOutOfDomain_eq_some_iff (a : List Word) (k : Nat) :
    firstOutOfDomain Config.params a = some k ↔
      k < a.length ∧ 1000 < (a.getD k 0).toNat ∧ ∀ j, j < k → (a.getD j 0).toNat ≤ 1000 := by
  unfold firstOutOfDomain
  rw [List.findIdx?_eq_some_iff_getElem]
  constructor
  · rintro ⟨lt, exceeds, least⟩
    refine ⟨lt, by simpa [outOfDomain_params, lt] using exceeds, fun j before => ?_⟩
    have inside : j < a.length := by omega
    simpa [outOfDomain_params, inside] using least j before
  · rintro ⟨lt, exceeds, least⟩
    refine ⟨lt, by simpa [outOfDomain_params, lt] using exceeds, fun j before => ?_⟩
    have inside : j < a.length := by omega
    simpa [outOfDomain_params, inside] using least j before

/-- The range check finds nothing exactly when every element is at most 1000 (42_frame_codec.md R81). -/
theorem firstOutOfDomain_eq_none_iff (a : List Word) :
    firstOutOfDomain Config.params a = none ↔ ∀ v ∈ a, v.toNat ≤ 1000 := by
  simp [firstOutOfDomain, List.findIdx?_eq_none_iff, outOfDomain_params]

end Sys2Proof.Machine
end

