-- ==== Sys2Proof/Laws/Exec.lean ====
section
/-! SUPPORT. What each meaning with cases can do, said once, and what a step does with the next event. -/

namespace Sys2Proof.Machine

theorem sixStaged_iff (s : State) : sixStaged s = true ↔ s.n = 6 := by
  rw [sixStaged, decide_eq_true_eq]
  exact ⟨fun h => BitVec.eq_of_toNat_eq h, fun h => by rw [h]; rfl⟩

theorem frameIndexExists_iff (i : Byte) : frameIndexExists i = true ↔ i.toNat ≤ 20 := by
  rw [frameIndexExists, decide_eq_true_eq, params_frameLen, frameIndex]
  omega

/-- The three outcomes of `ENC.ENCODE` (42_frame_codec.md R82). -/
theorem execEncEncode_cases (s : State) :
    (s.n ≠ 6 ∧ execEncEncode s =
        .next (raise (.encodingError (.count (s.n.setWidth 8))) (setFrameValid false s))) ∨
      (s.n = 6 ∧ s.rce = true ∧ ∃ k, firstOutOfDomain Config.params (angles s) = some k ∧ execEncEncode s =
        .next (raise (.encodingError (.range (BitVec.ofNat 8 k))) (setFrameValid false s))) ∨
      (s.n = 6 ∧ (s.rce = false ∨ firstOutOfDomain Config.params (angles s) = none) ∧ execEncEncode s =
        .next (respond .ok 0x0000 (storeFrame (frameOf Config.params (angles s)) s))) := by
  by_cases six : s.n = 6
  · have staged := (sixStaged_iff s).2 six
    rcases encodeFrame_cases (angles s) s.rce with ⟨len, -⟩ | ⟨-, on, k, first, eq⟩ | ⟨-, off, eq⟩
    · exact absurd (angles_length s) len
    · exact .inr (.inl ⟨six, on, k, first, by simp [execEncEncode, staged, eq]⟩)
    · exact .inr (.inr ⟨six, off, by simp [execEncEncode, staged, eq]⟩)
  · have staged : sixStaged s = false := by
      rw [← Bool.not_eq_true, sixStaged_iff]
      exact six
    exact .inl ⟨six, by simp [execEncEncode, staged]⟩

/-- The three outcomes of `FB.READ` (42_frame_codec.md R83). -/
theorem execFbRead_cases (i : Byte) (s : State) :
    (20 < i.toNat ∧ execFbRead i s = .next (raise (.indexRange i) s)) ∨
      (i.toNat ≤ 20 ∧ s.fv = false ∧ execFbRead i s = .next (raise .noFrame s)) ∨
      (i.toNat ≤ 20 ∧ s.fv = true ∧ execFbRead i s = .next (respond .ok (zext16 (frameByte s i.toNat)) s)) := by
  by_cases inside : i.toNat ≤ 20
  · have exists_ : frameIndexExists i = true := (frameIndexExists_iff i).2 inside
    cases fv : s.fv with
    | false => exact .inr (.inl ⟨inside, rfl, by simp [execFbRead, exists_, fv]⟩)
    | true => exact .inr (.inr ⟨inside, rfl, by simp [execFbRead, exists_, fv, frameIndex]⟩)
  · have absent : frameIndexExists i = false := by
      rw [← Bool.not_eq_true, frameIndexExists_iff]
      exact inside
    exact .inl ⟨by omega, by simp [execFbRead, absent]⟩

/-- A step with a command word next. -/
theorem step_command {s : State} {w : CmdWord} {rest : List HostEvent} (h : s.input = .command w :: rest) :
    (∃ i, decode w = .ok i ∧ step s = exec i (setInput rest s)) ∨
      (∃ e, decode w = .error e ∧ step s = .next (illegalWord w (setInput rest s))) := by
  cases dec : decode w with
  | ok i => exact .inl ⟨i, rfl, by simp [step, h, dec]⟩
  | error e => exact .inr ⟨e, rfl, by simp [step, h, dec]⟩

/-- A step with a reset next. -/
theorem step_reset {s : State} {rest : List HostEvent} (h : s.input = .reset :: rest) :
    step s = .next (applyReset (setInput rest s)) := by
  simp [step, h]

/-- A step with nothing presented. -/
theorem step_idle {s : State} (h : s.input = []) : step s = .fault .noCommandPresented := by
  simp [step, h]

end Sys2Proof.Machine
end

