-- ==== Sys2Proof/Laws/PerInstr.lean ====
section
/-! SUPPORT. Facts about every command as syntax, one lemma per constructor: the word of a command lies in its row of
the opcode map (30_encoding.md R49). -/

namespace Sys2Proof.Laws.RowMatch

/-- The command's word matches its row: `w & mask = match` (30_encoding.md R49). -/
def Statement (i : Instr) : Prop := matchesRow (encode i) (opcodeRow i) = true

theorem matchesRow_append (op opMask opMatch : Byte) (arg argMask argMatch : Word)
    (hop : op &&& opMask = opMatch) (harg : arg &&& argMask = argMatch) :
    matchesRow (commandWord op arg) (opMatch ++ argMatch, opMask ++ argMask) = true := by
  have both : (op ++ arg) &&& (opMask ++ argMask) = (op &&& opMask) ++ (arg &&& argMask) := BitVec.and_append
  simp [matchesRow, commandWord, both, hop, harg]

theorem byteArg_and_high (b : Byte) : byteArg b &&& 0xFF00#16 = 0x0000#16 := by
  apply BitVec.eq_of_toNat_eq
  simp only [byteArg, BitVec.toNat_and, BitVec.toNat_setWidth, BitVec.toNat_ofNat]
  have bound := b.isLt
  generalize b.toNat = x at bound ⊢
  revert x
  decide +kernel

theorem crcInit : Statement .crcInit := by rfl

theorem crcUpdate (b : Byte) : Statement (.crcUpdate b) :=
  matchesRow_append 0x11 0xFF 0x11 (byteArg b) 0xFF00 0x0000 rfl (byteArg_and_high b)

theorem crcRead : Statement .crcRead := by rfl

theorem angClear : Statement .angClear := by rfl

theorem angPush (v : Word) : Statement (.angPush v) :=
  matchesRow_append 0x21 0xFF 0x21 v 0x0000 0x0000 rfl (by simp)

theorem encEncode : Statement .encEncode := by rfl

theorem fbRead (i : Byte) : Statement (.fbRead i) :=
  matchesRow_append 0x31 0xFF 0x31 (byteArg i) 0xFF00 0x0000 rfl (byteArg_and_high i)

theorem stRead : Statement .stRead := by rfl

theorem ctlRead : Statement .ctlRead := by rfl

theorem ctlWrite (e : Bool) : Statement (.ctlWrite e) := by cases e <;> rfl

end Sys2Proof.Laws.RowMatch
end

