-- ==== Sys2Proof/Laws/Run.lean ====
section
/-! SUPPORT. Runs one step at a time, and the host's words one at a time. -/

namespace Sys2Proof.Machine

@[simp] theorem runs_zero (s : State) : runs 0 s = .next s := rfl

/-- A run of any machine goes on from the state its first step answers. -/
theorem coreRun_succ (M : Host.Core) {k : Nat} {s t : M.State} (h : M.step s = .next t) :
    M.run (k + 1) s = M.run k t := by
  simp only [Host.Core.run, h]

theorem runs_succ {k : Nat} {s t : State} (h : step s = .next t) : runs (k + 1) s = runs k t :=
  coreRun_succ Sys2Proof.core h

@[simp] theorem issuing_input (s : State) (ws : List CmdWord) : (issuing s ws).input = ws.map HostEvent.command := rfl

theorem issuing_issuing (s : State) (ws vs : List CmdWord) : issuing (issuing s ws) vs = issuing s vs := rfl

theorem issuing_nil (s : State) : issuing s [] = setInput [] s := rfl

/-- The first word issued, taken. -/
theorem setInput_issuing (s : State) (w : CmdWord) (ws : List CmdWord) :
    setInput (ws.map HostEvent.command) (issuing s (w :: ws)) = issuing s ws := rfl

/-- Issuing a command's word first runs the command on the state that is issuing the rest. -/
theorem step_issuing_encode {s : State} {w : CmdWord} {i : Instr} (ws : List CmdWord) (dec : decode w = .ok i) :
    step (issuing s (w :: ws)) = exec i (issuing s ws) := by
  simp [step, issuing, dec, setInput]

/-- What a step does with the first word issued. -/
theorem step_issuing (s : State) (w : CmdWord) (ws : List CmdWord) :
    (∃ i, decode w = .ok i ∧ step (issuing s (w :: ws)) = exec i (issuing s ws)) ∨
      (∃ e, decode w = .error e ∧ step (issuing s (w :: ws)) = .next (illegalWord w (issuing s ws))) :=
  step_command (s := issuing s (w :: ws)) (w := w) (rest := ws.map .command) rfl

end Sys2Proof.Machine
end

