-- ==== Sys2Proof/Tests/Slice0.lean ====
section
/-! SUPPORT. The model's own tests: expected values are from 95_test_vectors.md (the vector is named), or words written
out bit by bit from 30_encoding.md R47 to R49. Then a witness for the hypotheses of every statement that has any. -/

open Sys2Proof Sys2Proof.Machine

namespace Sys2Proof.Tests

/-! ### Small states -/

/-- Six angles staged: the vector of 95_test_vectors.md P2. -/
def staged : State := { State.reset with ang := #v[1000, 0, 0, 0, 500, 800], n := 6 }

/-- Six angles staged, two above 1000, the option on: 95_test_vectors.md P4 before step 14. -/
def outOfRange : State := { State.reset with ang := #v[1000, 1001, 0, 2000, 0, 0], n := 6, rce := true }

/-- The golden frame of 95_test_vectors.md S6. -/
def goldenBytes : List Byte :=
  [0x01, 0x10, 0x05, 0xCE, 0x00, 0x06, 0x0C, 0x03, 0xE8, 0x00, 0x00, 0x00, 0x00, 0x00, 0x00, 0x01, 0xF4, 0x03, 0x20,
   0xF5, 0x33]

/-- The golden frame encoded and valid: 95_test_vectors.md P2 after step 7. -/
def encoded : State := storeFrame goldenBytes staged

/-- The state a step or a command answers, or the one it was given where it stops. -/
def after (o : Host.Outcome State Fault Refusal) (s : State) : State :=
  match o with
  | .next t => t
  | _ => s

/-- The last response of a state. -/
def lastResponse (s : State) : Option Response := s.responses.getLast?

/-- `s` with one event to be presented. -/
def presenting (e : HostEvent) (s : State) : State := setInput [e] s

/-! ### Well-formedness: one ill-formed line for each check -/

theorem test_wf_noOperand : SourceLine.wf ⟨.crcInit, [0]⟩ = false := by decide
theorem test_wf_noOperand_read : SourceLine.wf ⟨.crcRead, [0]⟩ = false := by decide
theorem test_wf_noOperand_clear : SourceLine.wf ⟨.angClear, [0]⟩ = false := by decide
theorem test_wf_noOperand_encode : SourceLine.wf ⟨.encEncode, [0]⟩ = false := by decide
theorem test_wf_noOperand_status : SourceLine.wf ⟨.stRead, [0]⟩ = false := by decide
theorem test_wf_noOperand_control : SourceLine.wf ⟨.ctlRead, [0]⟩ = false := by decide
theorem test_wf_missingOperand : SourceLine.wf ⟨.crcUpdate, []⟩ = false := by decide
theorem test_wf_update : SourceLine.wf ⟨.crcUpdate, [256]⟩ = false := by decide
theorem test_wf_push : SourceLine.wf ⟨.angPush, [65536]⟩ = false := by decide
theorem test_wf_read : SourceLine.wf ⟨.fbRead, [256]⟩ = false := by decide
theorem test_wf_write : SourceLine.wf ⟨.ctlWrite, [2]⟩ = false := by decide
theorem test_wf_compute : SourceLine.wf ⟨.crcCompute, [1, 256]⟩ = false := by decide
theorem test_wf_frame : SourceLine.wf ⟨.encFrame, [65536]⟩ = false := by decide
theorem test_wf_dump : SourceLine.wf ⟨.fbDump, [0]⟩ = false := by decide

/-- A memory whose indices do not rise, and one with an index `FB` does not have, are not canonical. -/
theorem test_wf_memory_order : Memory.wf [(3, 0x00), (2, 0x00)] = false := by decide
theorem test_wf_memory_index : Memory.wf [(21, 0x00)] = false := by decide

/-! ### Decoding: words written out from 30_encoding.md R47 to R49, and 95_test_vectors.md V5 -/

theorem test_decode_crcInit : decode 0b000100000000000000000000#24 = .ok .crcInit := by rfl
theorem test_decode_crcUpdate : decode 0b000100010000000010100101#24 = .ok (.crcUpdate 0xA5) := by rfl
theorem test_decode_crcRead : decode 0b000100100000000000000000#24 = .ok .crcRead := by rfl
theorem test_decode_angClear : decode 0b001000000000000000000000#24 = .ok .angClear := by rfl
theorem test_decode_angPush : decode 0b001000010000001111101000#24 = .ok (.angPush 0x03E8) := by rfl
theorem test_decode_encEncode : decode 0b001100000000000000000000#24 = .ok .encEncode := by rfl
theorem test_decode_fbRead : decode 0b001100010000000000010011#24 = .ok (.fbRead 19) := by rfl
theorem test_decode_stRead : decode 0b010000000000000000000000#24 = .ok .stRead := by rfl
theorem test_decode_ctlRead : decode 0b010000010000000000000000#24 = .ok .ctlRead := by rfl
theorem test_decode_ctlWrite : decode 0b010000100000000000000001#24 = .ok (.ctlWrite true) := by rfl
theorem test_decode_formatN_nonzero : decode 0x308000#24 = .error (.mustBeZero 0x30) := by rfl
theorem test_decode_formatB_nonzero : decode 0x110100#24 = .error (.mustBeZero 0x11) := by rfl
theorem test_decode_formatC_nonzero : decode 0x420002#24 = .error (.mustBeZero 0x42) := by rfl
theorem test_decode_unassigned : decode 0x130000#24 = .error (.unknownOpcode 0x13) := by rfl
theorem test_decode_zeros : decode 0x000000#24 = .error (.unknownOpcode 0x00) := by rfl
theorem test_decode_ones : decode 0xFFFFFF#24 = .error (.unknownOpcode 0xFF) := by rfl
theorem test_decodeTableWord : decodeTableWord 24 0x2103E8 = some (.angPush 1000) := by rfl

/-! ### The checksum: V1, V2, K1, K2 -/

theorem test_crcStep : crcStep Config.params 0x1234 0x56 = 0xE993 := by decide +kernel
theorem test_crcStepByTable : crcStepByTable 0x1234 0x56 = 0xE993 := by decide +kernel
theorem test_crc16_empty : crc16 Config.params [] = 0xFFFF := by decide +kernel
theorem test_crc16_header : crc16 Config.params [0x01, 0x10, 0x05, 0xCE, 0x00, 0x06, 0x0C] = 0x1DF8 := by
  decide +kernel
theorem test_crc16_K1 :
    crc16 Config.params [0x31, 0x32, 0x33, 0x34, 0x35, 0x36, 0x37, 0x38, 0x39] = 0x4B37 := by decide +kernel
theorem test_crc16_K2 : le16 (crc16 Config.params [0x01, 0x03, 0x00, 0x00, 0x00, 0x01]) = [0x84, 0x0A] := by
  decide +kernel

/-- 30_encoding.md R42: `BYTE_COUNT = 2 * REG_COUNT = 2 * N_AXES` and `FRAME_LEN = HDR_LEN + PAYLOAD_LEN + CRC_LEN`. -/
theorem test_parameters_agree :
    Config.params.byteCount.toNat = 2 * Config.params.regCount.toNat ∧
      Config.params.byteCount.toNat = 2 * Config.params.nAxes ∧
      Config.params.frameLen = Config.params.hdrLen + Config.params.payloadLen + Config.params.crcLen := by decide

/-! ### The commands, one step each -/

/-- V6 last row. -/
theorem test_crcInit : (after (exec .crcInit { State.reset with crc := 0x1DF8 }) State.reset).crc = 0xFFFF := by
  decide +kernel
/-- V1 row 6. -/
theorem test_crcUpdate : (after (exec (.crcUpdate 0x01) State.reset) State.reset).crc = 0x807E := by decide +kernel
/-- V6 row 3. -/
theorem test_crcRead : lastResponse (after (exec .crcRead State.reset) State.reset) = some ⟨.ok, 0xFFFF⟩ := by
  decide +kernel
/-- R76: `n` is zeroed and `fv` stays. -/
theorem test_angClear :
    ((after (exec .angClear encoded) encoded).n, (after (exec .angClear encoded) encoded).fv) = (0, true) := by
  decide +kernel
/-- P2 step 1. -/
theorem test_angPush :
    ((after (exec (.angPush 1000) State.reset) State.reset).n,
      angleAt (after (exec (.angPush 1000) State.reset) State.reset) 0) = (1, 0x03E8) := by decide +kernel
/-- P3 step 15: the seventh is discarded. -/
theorem test_angPush_seventh :
    ((after (exec (.angPush 7) staged) staged).n, (after (exec (.angPush 7) staged) staged).ang) =
      (7, #v[1000, 0, 0, 0, 500, 800]) := by decide +kernel
/-- P2 step 7. -/
theorem test_encEncode : frameBytes (after (exec .encEncode staged) staged) = goldenBytes := by decide +kernel
/-- P4 step 14: the least offending index is 1. -/
theorem test_encEncode_range :
    lastResponse (after (exec .encEncode outOfRange) outOfRange) = some ⟨.encodingError, 0x0201⟩ := by decide +kernel
/-- P2 step 28: byte 19 is the low byte of the trailer. -/
theorem test_fbRead : lastResponse (after (exec (.fbRead 19) encoded) encoded) = some ⟨.ok, 0x00F5⟩ := by
  decide +kernel
/-- V6 row 5: index before valid. -/
theorem test_fbRead_range :
    lastResponse (after (exec (.fbRead 21) State.reset) State.reset) = some ⟨.indexRange, 0x0015⟩ := by decide +kernel
/-- P2 step 8. -/
theorem test_stRead : lastResponse (after (exec .stRead encoded) encoded) = some ⟨.ok, 0x000D⟩ := by decide +kernel
/-- P4 step 12. -/
theorem test_ctlRead : lastResponse (after (exec .ctlRead outOfRange) outOfRange) = some ⟨.ok, 0x0001⟩ := by
  decide +kernel
/-- P4 step 11. -/
theorem test_ctlWrite : (after (exec (.ctlWrite true) State.reset) State.reset).rce = true := by decide +kernel
/-- P5 step 21: an illegal word with the opcode of `CRC.INIT`. -/
theorem test_illegal :
    lastResponse (after (step (presenting (.command 0x100001) State.reset)) State.reset) =
      some ⟨.illegalCommand, 0x0010⟩ := by decide +kernel
/-- R51: the response word of V6 row 5. -/
theorem test_responseWord : Response.word ⟨.indexRange, 0x0015⟩ = 0x30015 := by decide +kernel
/-- The word of a table row is what the next step runs. -/
theorem test_withFetchWord :
    (after (step (State.reset.withFetchWord 24 0x2103E8)) State.reset).n = 1 := by decide +kernel

/-! ### The assembler: the examples of 30_encoding.md R52 -/

theorem test_line_update :
    assembleText [['C', 'R', 'C', '.', 'U', 'P', 'D', 'A', 'T', 'E', ' ', '0', 'x', '1', '0']] = .ok [0x110010] := by
  rfl
theorem test_line_push :
    assembleText [['A', 'N', 'G', '.', 'P', 'U', 'S', 'H', ' ', '1', '0', '0', '0']] = .ok [0x2103E8] := by rfl
theorem test_line_comment :
    assembleText [['E', 'N', 'C', '.', 'E', 'N', 'C', 'O', 'D', 'E', ' ', ';', ' ', 'x'], [';'], []] =
      .ok [0x300000] := by rfl
theorem test_line_refused :
    assembleText [['C', 'T', 'L', '.', 'W', 'R', 'I', 'T', 'E', ' ', '2']] = .error .operandDoesNotFit := by rfl

/-! ### Witnesses: for every statement with hypotheses, states and operands that meet them together -/

theorem witness_ResetSetsTheSpecifiedRegisters : (presenting .reset encoded).input = .reset :: [] := rfl

theorem witness_ResetForgetsTheStateBefore :
    (presenting .reset encoded).input = .reset :: [] ∧ (presenting .reset staged).input = .reset :: [] ∧
      (presenting .reset encoded).responses = (presenting .reset staged).responses := ⟨rfl, rfl, rfl⟩

theorem witness_StepRunsTheDecodedCommand :
    (presenting (.command 0x2103E8) staged).input = .command 0x2103E8 :: [] ∧
      decode 0x2103E8 = .ok (.angPush 1000) := ⟨rfl, rfl⟩

theorem witness_StepStops_idle : State.reset.input = [] := rfl
theorem witness_StepStops_presented : (presenting .reset State.reset).input ≠ [] := by decide

theorem witness_EveryCommandWordIsAnsweredOnce :
    (presenting (.command 0xFFFFFF) encoded).input = .command 0xFFFFFF :: [] := rfl

theorem witness_OpcodeMap : decode 0x3100FF = .ok (.fbRead 0xFF) ∧ matchesRow 0x3100FF (opcodeRow (.fbRead 0)) = true :=
  ⟨rfl, rfl⟩

theorem witness_OpcodeMap_disjoint :
    opcodeRow (.fbRead 0) ∈ opcodeRows ∧ matchesRow 0x3100FF (opcodeRow (.fbRead 0)) = true := by decide

theorem witness_DecodeOfEncode : Instr.wf (.fbRead 0xFF) = true := by decide

theorem witness_WordOutsideTheOpcodeMap :
    (presenting (.command 0x110100) encoded).input = .command 0x110100 :: [] ∧
      ∀ row ∈ opcodeRows, matchesRow 0x110100 row = false := by
  have none : (opcodeRows.all fun row => !matchesRow 0x110100 row) = true := by decide +kernel
  exact ⟨rfl, fun row mem => by simpa using List.all_eq_true.1 none row mem⟩

theorem witness_argument_formatN : (0x0001 : Word) ≠ 0 := by decide
theorem witness_argument_formatB : (0x0100 : Word).extractLsb' 8 8 ≠ (0 : Byte) := by decide
theorem witness_argument_formatC : (0x0002 : Word).extractLsb' 1 15 ≠ (0 : BitVec 15) := by decide

/-- The last count that stores, and the first that does not. -/
theorem witness_AngPush_stores : ({ staged with n := 5 } : State).n.toNat < 6 := by decide
theorem witness_AngPush_counts : 6 ≤ staged.n.toNat := by decide

theorem witness_EncEncode_count : ({ staged with n := 7 } : State).n ≠ 6 := by decide
theorem witness_EncEncode_range :
    outOfRange.n = 6 ∧ outOfRange.rce = true ∧ 1 < 6 ∧ 1000 < (angleAt outOfRange 1).toNat ∧
      ∀ j, j < 1 → (angleAt outOfRange j).toNat ≤ 1000 := by decide +kernel
theorem witness_EncEncode_ok :
    staged.n = 6 ∧ (staged.rce = false ∨ ∀ k, k < 6 → (angleAt staged k).toNat ≤ 1000) := by decide +kernel
theorem witness_EncEncode_ok_checked :
    ({ staged with rce := true } : State).n = 6 ∧
      ∀ k, k < 6 → (angleAt { staged with rce := true } k).toNat ≤ 1000 := by decide +kernel
theorem witness_EncEncode_twice : ∃ t, exec .encEncode staged = .next t := ⟨_, rfl⟩

theorem witness_FbRead_range : 20 < (21 : Byte).toNat := by decide
theorem witness_FbRead_noFrame : (20 : Byte).toNat ≤ 20 ∧ State.reset.fv = false := by decide
theorem witness_FbRead_ok : (20 : Byte).toNat ≤ 20 ∧ encoded.fv = true := by decide

theorem witness_AChangedByte : (0x00 : Byte) ≠ 0x01 := by decide

theorem witness_UpdatesContinueTheMessage : State.reset.crc = crc16 Config.params [] := by decide +kernel

theorem witness_ChecksumIsOfTheBytesUpdated :
    ∀ w ∈ ([0x110001, 0x300000, 0xFFFFFF] : List CmdWord), decode w ≠ .ok .crcInit := by
  intro w mem
  simp only [List.mem_cons, List.not_mem_nil, or_false] at mem
  rcases mem with rfl | rfl | rfl <;> exact fun h => by cases h

theorem witness_EncodeFunction_count : ([1, 2, 3, 4, 5] : List Word).length ≠ 6 := by decide
theorem witness_EncodeFunction_range :
    ([0, 0, 0, 0, 0, 1001] : List Word).length = 6 ∧ 5 < 6 ∧
      1000 < (([0, 0, 0, 0, 0, 1001] : List Word).getD 5 0).toNat ∧
      ∀ j, j < 5 → (([0, 0, 0, 0, 0, 1001] : List Word).getD j 0).toNat ≤ 1000 := by decide +kernel
theorem witness_EncodeFunction_ok :
    ([1000, 1000, 1000, 1000, 1000, 1000] : List Word).length = 6 ∧
      ∀ v ∈ ([1000, 1000, 1000, 1000, 1000, 1000] : List Word), v.toNat ≤ 1000 := by
  refine ⟨rfl, fun v mem => ?_⟩
  have thousand : v = 1000 := by simpa using mem
  rw [thousand]
  decide

theorem witness_encodeFrame_ok (v : Word) :
    encodeFrame Config.params [v, v, v, v, v, v] false = .ok (frameOf Config.params [v, v, v, v, v, v]) := rfl

theorem witness_EncodeIsInjective :
    encodeFrame Config.params [0, 0, 0, 0, 0, 0] false = .ok (frameOf Config.params [0, 0, 0, 0, 0, 0]) ∧
      encodeFrame Config.params [0, 0, 0, 0, 0, 0] true = .ok (frameOf Config.params [0, 0, 0, 0, 0, 0]) := ⟨rfl, rfl⟩

theorem witness_NoAngleValueIsChanged : ([1001, 0, 0, 0, 0, 0] : List Word).length = 6 := rfl

theorem witness_EncodeDependsOnly :
    staged.n = ({ encoded with crc := 0 } : State).n ∧ staged.ang = ({ encoded with crc := 0 } : State).ang ∧
      staged.rce = ({ encoded with crc := 0 } : State).rce := ⟨rfl, rfl, rfl⟩

theorem witness_PushesContinue_fit : State.reset.n.toNat + ([1, 2, 3, 4, 5, 6] : List Word).length ≤ 6 := by decide
theorem witness_PushesContinue_full : 6 ≤ staged.n.toNat := by decide

theorem witness_FrameDump : encoded.fv = true := rfl

theorem witness_ReadsHaveNoSideEffect : ∃ k, Instr.fbRead 20 = .fbRead k := ⟨20, rfl⟩

theorem witness_OnlyItsWriters :
    ∃ t, (presenting (.command 0x110001) encoded).input = .command 0x110001 :: [] ∧
      step (presenting (.command 0x110001) encoded) = .next t ∧ decode 0x110001 ≠ .ok .crcInit :=
  ⟨_, rfl, rfl, fun h => by cases h⟩

theorem witness_FrameStays : ∀ w ∈ ([0x200000, 0x2103E8] : List CmdWord), decode w ≠ .ok .encEncode := by
  intro w mem
  simp only [List.mem_cons, List.not_mem_nil, or_false] at mem
  rcases mem with rfl | rfl <;> exact fun h => by cases h

theorem witness_OnlyItsWriters_others :
    (∀ v, decode 0x110001 ≠ .ok (.angPush v)) ∧ decode 0x110001 ≠ .ok .angClear ∧ decode 0x110001 ≠ .ok .encEncode ∧
      (∀ e, decode 0x110001 ≠ .ok (.ctlWrite e)) ∧ ∀ b, decode 0x2103E8 ≠ .ok (.crcUpdate b) := by
  have update : decode 0x110001 = .ok (.crcUpdate 0x01) := rfl
  have push : decode 0x2103E8 = .ok (.angPush 1000) := rfl
  rw [update, push]
  exact ⟨fun _ h => (by cases h), fun h => (by cases h), fun h => (by cases h), fun _ h => (by cases h),
    fun _ h => (by cases h)⟩

/-- One clause each of `ExceptionsAreRaisedExactlyByTheirCauses`, at its boundary. -/
theorem witness_Exceptions_count :
    ∃ t r, step (presenting (.command 0x300000) { staged with n := 5 }) = .next t ∧ t.responses = [r] ∧
      r.status = .encodingError := ⟨_, ⟨.encodingError, 0x0105⟩, rfl, rfl, rfl⟩

theorem witness_Exceptions_range :
    lastResponse (after (step (presenting (.command 0x300000) outOfRange)) outOfRange) =
      some ⟨.encodingError, 0x0201⟩ := by decide +kernel

theorem witness_Exceptions_illegal :
    ∃ t r, step (presenting (.command 0x420002) staged) = .next t ∧ t.responses = [r] ∧
      r.status = .illegalCommand := ⟨_, ⟨.illegalCommand, 0x0042⟩, rfl, rfl, rfl⟩

theorem witness_Exceptions_index :
    decode 0x310015 = .ok (.fbRead 21) ∧ 20 < (21 : Byte).toNat ∧
      ∃ t r, step (presenting (.command 0x310015) State.reset) = .next t ∧ t.responses = [r] ∧
        r.status = .indexRange := ⟨rfl, by decide, _, ⟨.indexRange, 0x0015⟩, rfl, rfl, rfl⟩

theorem witness_Exceptions :
    ∃ t r, (presenting (.command 0x310000) State.reset).input = .command 0x310000 :: [] ∧
      step (presenting (.command 0x310000) State.reset) = .next t ∧
      t.responses = (presenting (.command 0x310000) State.reset).responses ++ [r] ∧ r.status ≠ .ok :=
  ⟨_, ⟨.noFrame, 0⟩, rfl, rfl, rfl, by decide⟩

theorem encoded_frame_written : ∀ i, i < 21 → (encoded.fb.lookup i).isSome = true := by decide +kernel

/-- A state that meets the invariant with a valid frame, and takes a step. -/
theorem witness_StepKeepsTheInvariant :
    Inv (presenting (.command 0x300000) encoded) ∧
      ∃ t, step (presenting (.command 0x300000) encoded) = .next t :=
  ⟨⟨by decide +kernel, fun _ => encoded_frame_written, fun _ => by decide +kernel⟩, ⟨_, rfl⟩⟩

/-- Two states that differ in `ang` and `fb`, which nothing has written, and that the host cannot tell apart. -/
theorem witness_UnwrittenValues :
    SameToHost (presenting (.command 0x210001) { State.reset with ang := #v[0, 0, 0, 0, 0, 0] })
        (presenting (.command 0x210001) { State.reset with ang := #v[1, 2, 3, 4, 5, 6], fb := [(0, 0xAA)] }) ∧
      ∃ t, step (presenting (.command 0x210001) { State.reset with ang := #v[0, 0, 0, 0, 0, 0] }) = .next t :=
  ⟨⟨rfl, rfl, rfl, rfl, rfl, rfl, fun _ => rfl, fun h => by cases h⟩, ⟨_, rfl⟩⟩

theorem witness_AssemblerNeverTruncates : 255 < 256 ∧ 65535 < 65536 ∧ 1 < 2 := by decide

end Sys2Proof.Tests
end

section
/-! Proofs of the statements on the scope of the model (00_scope.md R3, R4): a step runs one command, every command is
answered once, and `ENC.ENCODE` depends only on `n`, `ang` and `rce`. -/

namespace Sys2Proof.Machine

/-! ### One step -/

/-- A command word that decodes runs its command (00_scope.md R3). -/
theorem step_of_decode_ok {s : State} {w : CmdWord} {rest : List HostEvent} {i : Instr}
    (h : s.input = .command w :: rest) (dec : decode w = .ok i) : step s = exec i (setInput rest s) := by
  simp [step, h, dec]

/-- Settles O3: `step` on a word that decodes, with `setInput` written out. -/
theorem stepRunsTheDecodedCommand : Obligations.StepRunsTheDecodedCommand :=
  fun _ _ _ _ h dec => step_of_decode_ok h dec

/-! ### One response to every command -/

/-- `t` follows on `s` by one response more; the host's list of events and the number of resets stay. -/
structure AnsweredOnce (s t : State) : Prop where
  answered : ∃ r, t.responses = s.responses ++ [r]
  input : t.input = s.input
  resets : t.resets = s.resets

/-- A response to a state whose host side is that of `s` answers `s` once. -/
theorem AnsweredOnce.respond {s t : State} (st : Status) (d : Word) (responses : t.responses = s.responses)
    (input : t.input = s.input) (resets : t.resets = s.resets) : AnsweredOnce s (respond st d t) where
  answered := ⟨⟨st, d⟩, by rw [respond_responses, responses]⟩
  input := input
  resets := resets

/-- An exception is a response like any other (60_exceptions.md R108). -/
theorem AnsweredOnce.raise {s t : State} (x : BlockException) (responses : t.responses = s.responses)
    (input : t.input = s.input) (resets : t.resets = s.resets) : AnsweredOnce s (raise x t) :=
  .respond x.status x.data responses input resets

/-- All three outcomes of `ENC.ENCODE` answer once (42_frame_codec.md R82). -/
theorem execEncEncode_answers (s : State) : ∃ t, execEncEncode s = .next t ∧ AnsweredOnce s t := by
  rcases execEncEncode_cases s with ⟨-, eq⟩ | ⟨-, -, k, -, eq⟩ | ⟨-, -, eq⟩
  · exact ⟨_, eq, .raise _ rfl rfl rfl⟩
  · exact ⟨_, eq, .raise _ rfl rfl rfl⟩
  · exact ⟨_, eq, .respond _ _ rfl rfl rfl⟩

/-- All three outcomes of `FB.READ` answer once (42_frame_codec.md R83). -/
theorem execFbRead_answers (i : Byte) (s : State) : ∃ t, execFbRead i s = .next t ∧ AnsweredOnce s t := by
  rcases execFbRead_cases i s with ⟨-, eq⟩ | ⟨-, -, eq⟩ | ⟨-, -, eq⟩
  · exact ⟨_, eq, .raise _ rfl rfl rfl⟩
  · exact ⟨_, eq, .raise _ rfl rfl rfl⟩
  · exact ⟨_, eq, .respond _ _ rfl rfl rfl⟩

/-- No command stops the machine, and each is answered by one response (00_scope.md R3). -/
theorem exec_answers (i : Instr) (s : State) : ∃ t, exec i s = .next t ∧ AnsweredOnce s t := by
  cases i with
  | crcInit => exact ⟨_, rfl, .respond _ _ rfl rfl rfl⟩
  | crcUpdate b => exact ⟨_, rfl, .respond _ _ rfl rfl rfl⟩
  | crcRead => exact ⟨_, rfl, .respond _ _ rfl rfl rfl⟩
  | angClear => exact ⟨_, rfl, .respond _ _ rfl rfl rfl⟩
  | angPush v =>
    exact ⟨_, rfl, .respond _ _ (pushAngle_responses v s) (pushAngle_input v s) (pushAngle_resets v s)⟩
  | encEncode => exact execEncEncode_answers s
  | fbRead k => exact execFbRead_answers k s
  | stRead => exact ⟨_, rfl, .respond _ _ rfl rfl rfl⟩
  | ctlRead => exact ⟨_, rfl, .respond _ _ rfl rfl rfl⟩
  | ctlWrite e => exact ⟨_, rfl, .respond _ _ rfl rfl rfl⟩

/-- A step with a command word next, legal or not, answers the state that has taken the word (70_reset_and_hazards.md
R133). -/
theorem step_command_answers {s : State} {w : CmdWord} {rest : List HostEvent} (h : s.input = .command w :: rest) :
    ∃ t, step s = .next t ∧ AnsweredOnce (setInput rest s) t := by
  rcases step_command h with ⟨i, -, eq⟩ | ⟨e, -, eq⟩
  · rw [eq]
    exact exec_answers i (setInput rest s)
  · exact ⟨_, eq, .raise _ rfl rfl rfl⟩

/-- Settles O5: the ten commands and the illegal word each answer once. -/
theorem everyCommandWordIsAnsweredOnce : Obligations.EveryCommandWordIsAnsweredOnce := by
  intro s w rest h
  obtain ⟨t, eq, ⟨r, answered⟩, input, resets⟩ := step_command_answers h
  exact ⟨t, r, eq, answered, input, resets⟩

/-- A step with any event next has a next state. -/
theorem step_cons {s : State} {e : HostEvent} {rest : List HostEvent} (h : s.input = e :: rest) :
    ∃ t, step s = .next t := by
  cases e with
  | command w =>
    obtain ⟨t, eq, -⟩ := step_command_answers h
    exact ⟨t, eq⟩
  | reset => exact ⟨_, step_reset h⟩

/-- Settles O4: `step_idle` with nothing presented, `step_cons` with an event. -/
theorem stepStopsExactlyWithNothingPresented : Obligations.StepStopsExactlyWithNothingPresented := by
  refine fun s => ⟨step_idle, fun presented => ?_⟩
  obtain ⟨e, rest, h⟩ := List.exists_cons_of_ne_nil presented
  exact step_cons h

/-! ### What `ENC.ENCODE` depends on -/

/-- The verdict of `ENC.ENCODE`, from the count, the staging registers and the option alone (42_frame_codec.md R82). -/
def encodeVerdict (n : BitVec 3) (ang : Vector Word 6) (e : Bool) : Except EncodingError (List Byte) :=
  if n = 6 then encodeFrame Config.params ang.toList e else .error (.count (n.setWidth 8))

/-- What the verdict does to the state: the frame is stored, or `fv` is cleared and the error reported. -/
def applyVerdict : Except EncodingError (List Byte) → State → State
  | .ok f, s => respond .ok 0x0000 (storeFrame f s)
  | .error x, s => raise (.encodingError x) (setFrameValid false s)

/-- `ENC.ENCODE` applies its verdict. -/
theorem execEncEncode_eq_applyVerdict (s : State) :
    execEncEncode s = .next (applyVerdict (encodeVerdict s.n s.ang s.rce) s) := by
  by_cases six : s.n = 6
  · have staged := (sixStaged_iff s).2 six
    rw [execEncEncode, if_pos staged, encodeVerdict, if_pos six, ← angles]
    cases encodeFrame Config.params (angles s) s.rce <;> rfl
  · have notStaged : ¬ sixStaged s = true := fun staged => six ((sixStaged_iff s).1 staged)
    rw [execEncEncode, if_neg notStaged, encodeVerdict, if_neg six, applyVerdict]

/-- A frame the verdict gives has the 21 bytes of a CommandFrame (30_encoding.md R41). -/
theorem encodeVerdict_ok_length {n : BitVec 3} {ang : Vector Word 6} {e : Bool} {f : List Byte}
    (ok : encodeVerdict n ang e = .ok f) : f.length = 21 := by
  unfold encodeVerdict at ok
  split at ok
  case isFalse => cases ok
  case isTrue =>
    rcases encodeFrame_cases ang.toList e with ⟨-, eq⟩ | ⟨-, -, k, -, eq⟩ | ⟨six, -, eq⟩
    · cases eq.symm.trans ok
    · cases eq.symm.trans ok
    · cases eq.symm.trans ok
      rw [frameOf_length, six]

/-- Settles O36: states that agree on `n`, `ang` and `rce` have one verdict, and a valid frame is all of it. -/
theorem encodeDependsOnlyOnVectorAndOption : Obligations.EncodeDependsOnlyOnVectorAndOption := by
  intro s s' n ang rce
  have run := execEncEncode_eq_applyVerdict s
  have run' := execEncEncode_eq_applyVerdict s'
  rw [← n, ← ang, ← rce] at run'
  cases verdict : encodeVerdict s.n s.ang s.rce with
  | ok f =>
    rw [verdict] at run run'
    have len := encodeVerdict_ok_length verdict
    have frame (u : State) : frameBytes (applyVerdict (.ok f) u) = f := frameBytes_storeFrame len u
    exact ⟨_, _, _, run, run', rfl, rfl, rfl, fun _ => (frame s).trans (frame s').symm⟩
  | error x =>
    rw [verdict] at run run'
    exact ⟨_, _, _, run, run', rfl, rfl, rfl, fun valid => nomatch valid⟩

end Sys2Proof.Machine
end

section
/-! Proofs of the statements on the registers (10_state.md): what reset leaves in them, which command writes which
register, the invariant of the frame buffer, and that nothing unwritten is observed. -/

namespace Sys2Proof.Machine

/-! ### Reset -/

/-- `STATUS` reads 0x0000 with nothing staged and no frame (10_state.md R16). -/
theorem statusWord_eq_zero {s : State} (n : s.n = 0) (fv : s.fv = false) : statusWord s = 0x0000 := by
  rw [statusWord, n, fv]
  rfl

/-- `CTRL` reads 0x0000 with the option off (10_state.md R15). -/
theorem ctrlWord_eq_zero {s : State} (rce : s.rce = false) : ctrlWord s = 0x0000 := by
  rw [ctrlWord, rce]
  rfl

/-- Settles O1: `step_reset` for the event; the two views follow from `n`, `fv` and `rce`. -/
theorem resetSetsTheSpecifiedRegisters : Obligations.ResetSetsTheSpecifiedRegisters :=
  ⟨fun _ _ h => ⟨_, step_reset h, rfl, rfl, rfl, rfl, ctrlWord_eq_zero rfl, statusWord_eq_zero rfl rfl, rfl, rfl⟩,
    rfl, rfl, rfl, rfl, ctrlWord_eq_zero rfl, statusWord_eq_zero rfl rfl⟩

/-! ### What a command word writes beside its response -/

/-- What the verdict of `ENC.ENCODE` writes: the frame, or `fv <- 0` (42_frame_codec.md R82). -/
def writeVerdict : Except EncodingError (List Byte) → State → State
  | .ok f, s => storeFrame f s
  | .error _, s => setFrameValid false s

section writeVerdict_fields
variable (v : Except EncodingError (List Byte)) (s : State)
@[simp] theorem writeVerdict_crc : (writeVerdict v s).crc = s.crc := by cases v <;> rfl
@[simp] theorem writeVerdict_ang : (writeVerdict v s).ang = s.ang := by cases v <;> rfl
@[simp] theorem writeVerdict_n : (writeVerdict v s).n = s.n := by cases v <;> rfl
@[simp] theorem writeVerdict_rce : (writeVerdict v s).rce = s.rce := by cases v <;> rfl
@[simp] theorem writeVerdict_input : (writeVerdict v s).input = s.input := by cases v <;> rfl
end writeVerdict_fields

/-- Applying the verdict is its write and a response. -/
theorem applyVerdict_eq_respond (v : Except EncodingError (List Byte)) (s : State) :
    ∃ st d, applyVerdict v s = respond st d (writeVerdict v s) := by
  cases v <;> exact ⟨_, _, rfl⟩

/-- The state a decoded word leaves, apart from its response: the "written by" column of 10_state.md section 1. -/
def written : Except DecodeError Instr → State → State
  | .ok .crcInit, s => setCrc 0xFFFF s
  | .ok (.crcUpdate b), s => setCrc (crcStep Config.params s.crc b) s
  | .ok .angClear, s => setCount 0 s
  | .ok (.angPush v), s => pushAngle v s
  | .ok .encEncode, s => writeVerdict (encodeVerdict s.n s.ang s.rce) s
  | .ok (.ctlWrite e), s => setRce e s
  | _, s => s

/-- The response of `FB.READ` (42_frame_codec.md R83). -/
def fbReadResponse (i : Byte) (s : State) : Response :=
  if 20 < i.toNat then ⟨.indexRange, (0x00 : Byte) ++ i⟩
  else if s.fv then ⟨.ok, zext16 (frameByte s i.toNat)⟩
  else ⟨.noFrame, 0x0000⟩

/-- `FB.READ` only responds. -/
theorem execFbRead_eq_respond (i : Byte) (s : State) :
    execFbRead i s = .next (respond (fbReadResponse i s).status (fbReadResponse i s).data s) := by
  rcases execFbRead_cases i s with ⟨absent, eq⟩ | ⟨inside, fv, eq⟩ | ⟨inside, fv, eq⟩
  · rw [eq, fbReadResponse, if_pos absent]
    rfl
  · rw [eq, fbReadResponse, if_neg (by omega), fv]
    rfl
  · rw [eq, fbReadResponse, if_neg (by omega), if_pos fv]

/-- Each command writes what `written` says and responds. -/
theorem exec_eq_respond_written (i : Instr) (s : State) :
    ∃ st d, exec i s = .next (respond st d (written (.ok i) s)) := by
  cases i with
  | encEncode =>
    obtain ⟨st, d, responds⟩ := applyVerdict_eq_respond (encodeVerdict s.n s.ang s.rce) s
    exact ⟨st, d, (execEncEncode_eq_applyVerdict s).trans (congrArg _ responds)⟩
  | fbRead k => exact ⟨_, _, execFbRead_eq_respond k s⟩
  | _ => exact ⟨_, _, rfl⟩

/-- A step with a command word next, legal or not, writes what `written` says and responds. -/
theorem step_command_eq_respond_written {s : State} {w : CmdWord} {rest : List HostEvent}
    (h : s.input = .command w :: rest) :
    ∃ st d, step s = .next (respond st d (written (decode w) (setInput rest s))) := by
  rcases step_command h with ⟨i, dec, eq⟩ | ⟨e, dec, eq⟩
  · rw [eq, dec]
    exact exec_eq_respond_written i (setInput rest s)
  · rw [eq, dec]
    exact ⟨_, _, rfl⟩

/-! ### Which words leave a register alone -/

section written_fields
variable {c : Except DecodeError Instr} (s : State)

/-- `crc` is written by `CRC.INIT` and `CRC.UPDATE` only (10_state.md R10). -/
theorem written_crc (init : c ≠ .ok .crcInit) (update : ∀ b, c ≠ .ok (.crcUpdate b)) :
    (written c s).crc = s.crc := by
  rcases c with e | i
  · rfl
  cases i with
  | crcInit => exact absurd rfl init
  | crcUpdate b => exact absurd rfl (update b)
  | angPush v => exact pushAngle_crc v s
  | encEncode => exact writeVerdict_crc _ s
  | _ => rfl

/-- `ang` is written by `ANG.PUSH` only (10_state.md R11). -/
theorem written_ang (push : ∀ v, c ≠ .ok (.angPush v)) : (written c s).ang = s.ang := by
  rcases c with e | i
  · rfl
  cases i with
  | angPush v => exact absurd rfl (push v)
  | encEncode => exact writeVerdict_ang _ s
  | _ => rfl

/-- `n` is written by `ANG.CLEAR` and `ANG.PUSH` only (10_state.md R12). -/
theorem written_n (clear : c ≠ .ok .angClear) (push : ∀ v, c ≠ .ok (.angPush v)) : (written c s).n = s.n := by
  rcases c with e | i
  · rfl
  cases i with
  | angClear => exact absurd rfl clear
  | angPush v => exact absurd rfl (push v)
  | encEncode => exact writeVerdict_n _ s
  | _ => rfl

/-- `rce` is written by `CTL.WRITE` only (10_state.md R15). -/
theorem written_rce (write : ∀ e, c ≠ .ok (.ctlWrite e)) : (written c s).rce = s.rce := by
  rcases c with e | i
  · rfl
  cases i with
  | ctlWrite e => exact absurd rfl (write e)
  | angPush v => exact pushAngle_rce v s
  | encEncode => exact writeVerdict_rce _ s
  | _ => rfl

/-- No command writes the host's list of events. -/
theorem written_input (c : Except DecodeError Instr) : (written c s).input = s.input := by
  rcases c with e | i
  · rfl
  cases i with
  | angPush v => exact pushAngle_input v s
  | encEncode => exact writeVerdict_input _ s
  | _ => rfl

end written_fields

/-- `t` has the frame of `s` and its valid flag; `resets` selects what the bytes not written read as. -/
structure FrameKept (s t : State) : Prop where
  fb : t.fb = s.fb
  fv : t.fv = s.fv
  resets : t.resets = s.resets

theorem FrameKept.trans {s t u : State} (h : FrameKept s t) (k : FrameKept t u) : FrameKept s u :=
  ⟨k.fb.trans h.fb, k.fv.trans h.fv, k.resets.trans h.resets⟩

/-- A frame kept is kept byte by byte. -/
theorem FrameKept.frameByte {s t : State} (h : FrameKept s t) (a : Nat) : frameByte t a = frameByte s a :=
  frameByte_congr h.fb h.resets a

/-- `fb` and `fv` are written by `ENC.ENCODE` only (10_state.md R13, R14). -/
theorem written_frameKept {c : Except DecodeError Instr} (encode : c ≠ .ok .encEncode) (s : State) :
    FrameKept s (written c s) := by
  rcases c with e | i
  · exact ⟨rfl, rfl, rfl⟩
  cases i with
  | encEncode => exact absurd rfl encode
  | angPush v => exact ⟨pushAngle_fb v s, pushAngle_fv v s, pushAngle_resets v s⟩
  | _ => exact ⟨rfl, rfl, rfl⟩

/-- Settles O41: the lemmas on `written`, register by register. -/
theorem onlyItsWritersChangeARegister : Obligations.OnlyItsWritersChangeARegister := by
  intro s t w rest h run
  obtain ⟨st, d, eq⟩ := step_command_eq_respond_written h
  cases eq.symm.trans run
  refine ⟨written_crc _, written_ang _, written_n _, fun encode => ?_, written_rce _⟩
  have kept := written_frameKept encode (setInput rest s)
  exact ⟨kept.fv, kept.frameByte⟩

/-! ### The frame over a run -/

/-- A step on a word other than `ENC.ENCODE` takes the word and keeps the frame. -/
theorem step_command_frameKept {s : State} {w : CmdWord} {rest : List HostEvent} (h : s.input = .command w :: rest)
    (encode : decode w ≠ .ok .encEncode) : ∃ t, step s = .next t ∧ t.input = rest ∧ FrameKept s t := by
  obtain ⟨st, d, eq⟩ := step_command_eq_respond_written h
  have kept := written_frameKept encode (setInput rest s)
  exact ⟨_, eq, written_input (setInput rest s) (decode w), kept.fb, kept.fv, kept.resets⟩

/-- A run over words with no `ENC.ENCODE` among them keeps the frame (10_state.md R13). -/
theorem runs_frameKept {ws : List CmdWord} (noEncode : ∀ w ∈ ws, decode w ≠ .ok .encEncode) {s : State}
    (h : s.input = ws.map HostEvent.command) : ∃ t, runs ws.length s = .next t ∧ FrameKept s t := by
  induction ws generalizing s with
  | nil => exact ⟨s, rfl, rfl, rfl, rfl⟩
  | cons w ws ih =>
    rw [List.forall_mem_cons] at noEncode
    obtain ⟨first, others⟩ := noEncode
    obtain ⟨u, eq, input, kept⟩ := step_command_frameKept h first
    obtain ⟨t, run, later⟩ := ih others input
    exact ⟨t, (runs_succ eq).trans run, kept.trans later⟩

/-- Settles O42, by induction on the words issued. -/
theorem frameStaysUntilTheNextEncode : Obligations.FrameStaysUntilTheNextEncode := by
  intro s ws noEncode
  obtain ⟨t, run, kept⟩ := runs_frameKept noEncode (issuing_input s ws)
  exact ⟨t, run, kept.fv, kept.frameByte⟩

/-! ### The invariant -/

/-- With no valid frame the invariant is the canonical form of `fb` alone. -/
theorem Inv.of_fv_false {s : State} (wf : s.fb.wf = true) (fv : s.fv = false) : Inv s where
  memory_wf := wf
  frame_written valid := nomatch fv.symm.trans valid
  frame_good valid := nomatch fv.symm.trans valid

/-- Clearing `fv` keeps the invariant. -/
theorem Inv.invalidate {s : State} (inv : Inv s) : Inv (setFrameValid false s) :=
  .of_fv_false inv.memory_wf rfl

/-- The invariant speaks of the frame and its flag only. -/
theorem Inv.of_frameKept {s t : State} (inv : Inv s) (kept : FrameKept s t) : Inv t where
  memory_wf := kept.fb ▸ inv.memory_wf
  frame_written valid := kept.fb ▸ inv.frame_written (kept.fv ▸ valid)
  frame_good valid := frameBytes_congr kept.fb kept.resets ▸ inv.frame_good (kept.fv ▸ valid)

/-- Storing a CommandFrame with a right checksum meets the invariant (30_encoding.md R42, R44). -/
theorem Inv.storeFrame {s : State} {f : List Byte} (wf : s.fb.wf = true) (len : f.length = 21)
    (good : isCommandFrame Config.params f = true) : Inv (storeFrame f s) where
  memory_wf := Memory.wf_writeBytes wf (by omega)
  frame_written _ i lt := by
    rw [storeFrame_fb, Memory.lookup_writeBytes, if_pos (by omega)]
    simp [len, lt]
  frame_good _ := by rwa [frameBytes_storeFrame len]

/-- A response touches no frame. -/
theorem Inv.respond {s : State} (inv : Inv s) (st : Status) (d : Word) : Inv (respond st d s) :=
  inv.of_frameKept ⟨rfl, rfl, rfl⟩

/-- `ENC.ENCODE` stores a good frame or clears `fv` (42_frame_codec.md R82). -/
theorem execEncEncode_inv {s t : State} (inv : Inv s) (run : execEncEncode s = .next t) : Inv t := by
  rcases execEncEncode_cases s with ⟨-, eq⟩ | ⟨-, -, k, -, eq⟩ | ⟨-, -, eq⟩
  · cases eq.symm.trans run
    exact inv.invalidate.respond _ _
  · cases eq.symm.trans run
    exact inv.invalidate.respond _ _
  · cases eq.symm.trans run
    exact .respond (.storeFrame inv.memory_wf (by simp) (isCommandFrame_frameOf (angles_length s))) _ _

/-- A command word keeps the invariant: `ENC.ENCODE` by its frame, every other word by touching none. -/
theorem step_command_inv {s t : State} {w : CmdWord} {rest : List HostEvent} (inv : Inv s)
    (h : s.input = .command w :: rest) (run : step s = .next t) : Inv t := by
  by_cases encode : decode w = .ok .encEncode
  · have eq : step s = execEncEncode (setInput rest s) := step_of_decode_ok h encode
    have taken : Inv (setInput rest s) := inv.of_frameKept ⟨rfl, rfl, rfl⟩
    exact execEncEncode_inv taken (eq.symm.trans run)
  · obtain ⟨u, eq, -, kept⟩ := step_command_frameKept h encode
    cases eq.symm.trans run
    exact inv.of_frameKept kept

/-- Settles O46: a step is idle, a command word (`step_command_inv`), or a reset, which clears `fv`. -/
theorem stepKeepsTheInvariant : Obligations.StepKeepsTheInvariant := by
  intro s t inv run
  match h : s.input with
  | [] => cases (step_idle h).symm.trans run
  | .command w :: rest => exact step_command_inv inv h run
  | .reset :: rest =>
    cases (step_reset h).symm.trans run
    exact .of_fv_false rfl rfl

/-- Settles O45: no byte is listed after reset, and `fv = 0`. -/
theorem resetMeetsTheInvariant : Obligations.ResetMeetsTheInvariant :=
  Inv.of_fv_false reset_memory_wf reset_fv

/-! ### Nothing unwritten is observed

`SameToHost` is carried through each operation, then through each command. -/

section updates_sameToHost
variable {s t : State} (h : SameToHost s t)
include h

theorem SameToHost.respond (st : Status) (d : Word) : SameToHost (respond st d s) (respond st d t) :=
  { h with responses := congrArg (· ++ [Response.mk st d]) h.responses }

theorem SameToHost.setInput (es : List HostEvent) : SameToHost (setInput es s) (setInput es t) :=
  { h with input := rfl }

theorem SameToHost.setCrc (v : Word) : SameToHost (setCrc v s) (setCrc v t) :=
  { h with crc := rfl }

theorem SameToHost.setRce (e : Bool) : SameToHost (setRce e s) (setRce e t) :=
  { h with rce := rfl }

/-- A count of zero leaves no element to observe. -/
theorem SameToHost.clearCount : SameToHost (setCount 0 s) (setCount 0 t) :=
  { h with n := rfl, staged := fun _ => rfl }

/-- A saturated count leaves no element to observe: one has been discarded. -/
theorem SameToHost.saturateCount : SameToHost (setCount 7 s) (setCount 7 t) :=
  { h with n := rfl, staged := fun kept => absurd rfl kept }

/-- Reset leaves nothing to observe of `ang` and `fb`. -/
theorem SameToHost.applyReset : SameToHost (applyReset s) (applyReset t) :=
  { h with
    crc := rfl, n := rfl, fv := rfl, rce := rfl, staged := fun _ => rfl, frame := fun valid => nomatch valid }

/-- A cleared `fv` leaves no byte to observe. -/
theorem SameToHost.invalidateFrame : SameToHost (setFrameValid false s) (setFrameValid false t) :=
  { h with fv := rfl, frame := fun valid => nomatch valid }

/-- A whole frame stored is the frame of both. -/
theorem SameToHost.storeFrame {f : List Byte} (len : f.length = 21) : SameToHost (storeFrame f s) (storeFrame f t) :=
  { h with fv := rfl, frame := fun _ => (frameBytes_storeFrame len s).trans (frameBytes_storeFrame len t).symm }

end updates_sameToHost

/-- A push below the sixth appends to the staged vector (41_angle_staging.md R75, R77). -/
theorem stagedVector_push (v : Word) {s : State} (below : s.n.toNat < 6) :
    stagedVector (setCount (s.n + 1) (setAngle s.n.toNat v s)) = stagedVector s ++ [v] := by
  have count : (s.n + 1).toNat = s.n.toNat + 1 := by
    rw [BitVec.toNat_add]
    exact Nat.mod_eq_of_lt (by simp; omega)
  have toList : angles (setCount (s.n + 1) (setAngle s.n.toNat v s)) = (angles s).set s.n.toNat v := by
    simp [angles]
  rw [stagedVector, stagedVector, setCount_n, count, toList, List.take_add_one, List.take_set_of_le (Nat.le_refl _),
    List.getElem?_set_self (by simpa using below), Option.toList_some]

/-- A push is the same to the host in all three cases of 41_angle_staging.md R77. -/
theorem SameToHost.pushAngle {s t : State} (h : SameToHost s t) (v : Word) :
    SameToHost (pushAngle v s) (pushAngle v t) := by
  unfold Machine.pushAngle
  rw [← h.n]
  split
  case isTrue below =>
    have notFull : s.n ≠ 7 := fun full => absurd (full ▸ below) (by decide)
    have appended : stagedVector s ++ [v] = stagedVector t ++ [v] := congrArg (· ++ [v]) (h.staged notFull)
    have atT := stagedVector_push v (h.n ▸ below)
    rw [← h.n] at atT
    exact { h with
      n := rfl
      staged := fun _ => (stagedVector_push v below).trans (appended.trans atT.symm) }
  case isFalse =>
    split
    · exact h.saturateCount
    · exact h

/-! Each command answers the same. -/

/-- While `fv = 1` the two states have the same byte at every index of `FB`. -/
theorem SameToHost.frameByte {s t : State} (h : SameToHost s t) (valid : s.fv = true) {i : Nat} (lt : i < 21) :
    frameByte s i = frameByte t i := by
  have byte : (frameBytes s)[i]? = (frameBytes t)[i]? := by rw [h.frame valid]
  rwa [frameBytes_getElem lt, frameBytes_getElem lt, Option.some.injEq] at byte

/-- `FB.READ` reads a byte only while `fv = 1`, and only at an index that exists (42_frame_codec.md R83). -/
theorem SameToHost.fbReadResponse {s t : State} (h : SameToHost s t) (i : Byte) :
    fbReadResponse i s = fbReadResponse i t := by
  unfold Machine.fbReadResponse
  rw [← h.fv]
  split
  · rfl
  split
  case isTrue inside valid => rw [h.frameByte valid (by omega)]
  case isFalse => rfl

/-- `STATUS` shows `n` and `fv` alone (10_state.md R16). -/
theorem SameToHost.statusWord {s t : State} (h : SameToHost s t) : statusWord s = statusWord t := by
  rw [Machine.statusWord, Machine.statusWord, h.n, h.fv]

/-- `CTRL` shows `rce` alone (10_state.md R15). -/
theorem SameToHost.ctrlWord {s t : State} (h : SameToHost s t) : ctrlWord s = ctrlWord t := by
  rw [Machine.ctrlWord, Machine.ctrlWord, h.rce]

/-- With six elements pushed the staged vector is all of `ang` (41_angle_staging.md R75). -/
theorem stagedVector_of_six {s : State} (six : s.n = 6) : stagedVector s = angles s := by
  rw [stagedVector, six]
  exact List.take_of_length_le (angles_length s).le

/-- `ENC.ENCODE` looks at `ang` only with all six elements pushed (42_frame_codec.md R82). -/
theorem SameToHost.encodeVerdict {s t : State} (h : SameToHost s t) :
    encodeVerdict s.n s.ang s.rce = encodeVerdict t.n t.ang t.rce := by
  unfold Machine.encodeVerdict
  rw [← h.n, ← h.rce]
  split
  case isTrue six =>
    have staged := h.staged (six ▸ by decide)
    rw [stagedVector_of_six six, stagedVector_of_six (h.n ▸ six)] at staged
    exact congrArg (encodeFrame Config.params · s.rce) staged
  case isFalse => rfl

/-- The two states go on alike under `ENC.ENCODE`, which gives both one verdict. -/
theorem SameToHost.applyVerdict {s t : State} (h : SameToHost s t) :
    SameToHost (applyVerdict (Machine.encodeVerdict s.n s.ang s.rce) s)
      (applyVerdict (Machine.encodeVerdict t.n t.ang t.rce) t) := by
  rw [← h.encodeVerdict]
  cases verdict : Machine.encodeVerdict s.n s.ang s.rce with
  | ok f => exact (h.storeFrame (encodeVerdict_ok_length verdict)).respond _ _
  | error x => exact h.invalidateFrame.respond _ _

/-- Each command takes states that are the same to the host to states that are, its response included
(10_state.md R19). -/
theorem SameToHost.exec {s t : State} (h : SameToHost s t) (i : Instr) :
    ∃ s' t', exec i s = .next s' ∧ exec i t = .next t' ∧ SameToHost s' t' := by
  cases i with
  | crcInit => exact ⟨_, _, rfl, rfl, (h.setCrc _).respond _ _⟩
  | crcUpdate b => exact ⟨_, _, rfl, h.crc ▸ rfl, (h.setCrc _).respond _ _⟩
  | crcRead => exact ⟨_, _, rfl, h.crc ▸ rfl, h.respond _ _⟩
  | angClear => exact ⟨_, _, rfl, rfl, h.clearCount.respond _ _⟩
  | angPush v => exact ⟨_, _, rfl, rfl, (h.pushAngle v).respond _ _⟩
  | encEncode => exact ⟨_, _, execEncEncode_eq_applyVerdict s, execEncEncode_eq_applyVerdict t, h.applyVerdict⟩
  | fbRead k =>
    have same := h.fbReadResponse k
    exact ⟨_, _, execFbRead_eq_respond k s, same ▸ execFbRead_eq_respond k t, h.respond _ _⟩
  | stRead => exact ⟨_, _, rfl, h.statusWord ▸ rfl, h.respond _ _⟩
  | ctlRead => exact ⟨_, _, rfl, h.ctrlWord ▸ rfl, h.respond _ _⟩
  | ctlWrite e => exact ⟨_, _, rfl, rfl, (h.setRce e).respond _ _⟩

/-- A word that is no command is answered as such (30_encoding.md R50). -/
theorem step_of_decode_error {s : State} {w : CmdWord} {rest : List HostEvent} {e : DecodeError}
    (h : s.input = .command w :: rest) (dec : decode w = .error e) :
    step s = .next (illegalWord w (setInput rest s)) := by
  simp [step, h, dec]

/-- Settles O47: a step is idle, a command (`SameToHost.exec`), a word that is no command, or a reset. -/
theorem unwrittenValuesAreUnobservable : Obligations.UnwrittenValuesAreUnobservable := by
  intro s t s' h run
  match hs : s.input with
  | [] => cases (step_idle hs).symm.trans run
  | .reset :: rest =>
    have ht := h.input.symm.trans hs
    cases (step_reset hs).symm.trans run
    exact ⟨_, step_reset ht, (h.setInput rest).applyReset⟩
  | .command w :: rest =>
    have ht := h.input.symm.trans hs
    cases dec : decode w with
    | ok i =>
      obtain ⟨u, t', execS, execT, same⟩ := (h.setInput rest).exec i
      have stepS : step s = .next u := (step_of_decode_ok hs dec).trans execS
      cases stepS.symm.trans run
      exact ⟨t', (step_of_decode_ok ht dec).trans execT, same⟩
    | error e =>
      cases (step_of_decode_error hs dec).symm.trans run
      exact ⟨_, step_of_decode_error ht dec, (h.setInput rest).respond _ _⟩

end Sys2Proof.Machine
end

section
/-! Proofs of the statements on memory (20_memory.md): a 16-bit value in two bytes, and the four reads. -/

namespace Sys2Proof.Machine

/-! ### 16-bit values in bytes -/

theorem hi8_toNat (q : Word) : (hi8 q).toNat = q.toNat / 256 := by
  have bound := q.isLt
  rw [hi8, BitVec.extractLsb'_toNat, Nat.shiftRight_eq_div_pow]
  exact Nat.mod_eq_of_lt (by omega)

theorem lo8_toNat (q : Word) : (lo8 q).toNat = q.toNat % 256 := by
  rw [lo8, BitVec.extractLsb'_toNat, Nat.shiftRight_zero]

/-- Settles O29: the bytes are `hi8` and `lo8`, the quotient and the remainder by 256. -/
theorem bytePlacementsOfAHalfword : Obligations.BytePlacementsOfAHalfword := by
  refine fun q => ⟨hi8 q, lo8 q, rfl, rfl, ?_⟩
  rw [hi8_toNat, lo8_toNat, Nat.div_add_mod]

/-! ### The four reads -/

/-- The same response given twice is two responses more and nothing else. -/
theorem respond_respond_self (st : Status) (d : Word) (s : State) :
    respond st d (respond st d s) = { s with responses := s.responses ++ [⟨st, d⟩, ⟨st, d⟩] } := by
  simp [respond]

/-- `FB.READ` does not look at the responses returned so far. -/
theorem fbReadResponse_respond (i : Byte) (st : Status) (d : Word) (s : State) :
    fbReadResponse i (respond st d s) = fbReadResponse i s := rfl

/-- `FB.READ` only responds, and repeated responds the same, in all three cases of 42_frame_codec.md R83. -/
theorem execFbRead_repeats (i : Byte) (s : State) :
    ∃ st d, execFbRead i s = .next (respond st d s) ∧
      execFbRead i (respond st d s) = .next (respond st d (respond st d s)) := by
  refine ⟨_, _, execFbRead_eq_respond i s, ?_⟩
  rw [execFbRead_eq_respond, fbReadResponse_respond]

/-- A read only responds, and repeated responds the same: what it reads is none of the responses (20_memory.md R28). -/
theorem exec_read_repeats {i : Instr} (read : i = .crcRead ∨ (∃ k, i = .fbRead k) ∨ i = .stRead ∨ i = .ctlRead)
    (s : State) :
    ∃ st d, exec i s = .next (respond st d s) ∧
      exec i (respond st d s) = .next (respond st d (respond st d s)) := by
  rcases read with rfl | ⟨k, rfl⟩ | rfl | rfl
  · exact ⟨.ok, s.crc, rfl, rfl⟩
  · exact execFbRead_repeats k s
  · exact ⟨.ok, statusWord s, rfl, rfl⟩
  · exact ⟨.ok, ctrlWord s, rfl, rfl⟩

/-- Settles O40: `exec_read_repeats`, with the responses written out. -/
theorem readsHaveNoSideEffect : Obligations.ReadsHaveNoSideEffect := by
  intro i s read
  obtain ⟨st, d, first, again⟩ := exec_read_repeats read s
  rw [respond_respond_self] at again
  exact ⟨⟨st, d⟩, first, again⟩

end Sys2Proof.Machine
end

section
/-! Proofs of the statements on the command word (30_encoding.md R47 to R50): the decoder and the encoder are inverse to
each other, and a word decodes exactly when it lies in a row of the opcode map. -/

namespace Sys2Proof

/-! ### The operand formats -/

/-- An argument whose high byte is zero is its low byte, zero-extended (format B). -/
theorem byteArg_extract {arg : Word} (high : arg.extractLsb' 8 8 = (0 : Byte)) : byteArg (arg.extractLsb' 0 8) = arg := by
  have highNat : (arg.extractLsb' 8 8).toNat = 0 := congrArg BitVec.toNat high
  have bound := arg.isLt
  apply BitVec.eq_of_toNat_eq
  rw [BitVec.extractLsb'_toNat, Nat.shiftRight_eq_div_pow] at highNat
  simp only [byteArg, BitVec.toNat_setWidth, BitVec.extractLsb'_toNat, Nat.shiftRight_zero]
  omega

/-- An argument whose upper fifteen bits are zero is its bit 0, zero-extended (format C). -/
theorem bitArg_extract {arg : Word} (high : arg.extractLsb' 1 15 = (0 : BitVec 15)) : bitArg (arg.getLsbD 0) = arg := by
  have highNat : (arg.extractLsb' 1 15).toNat = 0 := congrArg BitVec.toNat high
  have bound := arg.isLt
  rw [BitVec.extractLsb'_toNat, Nat.shiftRight_eq_div_pow] at highNat
  have small : arg.toNat = 0 ∨ arg.toNat = 1 := by omega
  rcases small with zero | one
  · rw [BitVec.eq_of_toNat_eq (y := 0#16) zero]
    rfl
  · rw [BitVec.eq_of_toNat_eq (y := 1#16) one]
    rfl

theorem formatN_eq_ok_iff {op : Byte} {arg : Word} {i j : Instr} :
    formatN op arg i = .ok j ↔ arg = 0 ∧ i = j := by
  unfold formatN
  constructor
  · intro ok
    split at ok
    case isTrue zero => exact ⟨zero, Except.ok.inj ok⟩
    case isFalse => cases ok
  · rintro ⟨rfl, rfl⟩
    exact if_pos rfl

theorem formatB_eq_ok_iff {op : Byte} {arg : Word} {i : Byte → Instr} {j : Instr} :
    formatB op arg i = .ok j ↔ ∃ b, arg = byteArg b ∧ i b = j := by
  unfold formatB
  constructor
  · intro ok
    split at ok
    case isTrue high => exact ⟨_, (byteArg_extract high).symm, Except.ok.inj ok⟩
    case isFalse => cases ok
  · rintro ⟨b, rfl, rfl⟩
    rw [if_pos (byteArg_high b), byteArg_low]

theorem formatC_eq_ok_iff {op : Byte} {arg : Word} {i : Bool → Instr} {j : Instr} :
    formatC op arg i = .ok j ↔ ∃ e, arg = bitArg e ∧ i e = j := by
  unfold formatC
  constructor
  · intro ok
    split at ok
    case isTrue high => exact ⟨_, (bitArg_extract high).symm, Except.ok.inj ok⟩
    case isFalse => cases ok
  · rintro ⟨e, rfl, rfl⟩
    rw [if_pos (bitArg_high e), bitArg_low]

/-! ### Decoding and encoding are inverse -/

/-- Every command is what its word decodes to (30_encoding.md R49, R52). -/
theorem decode_encode (i : Instr) : decode (encode i) = .ok i := by
  cases i with
  | crcInit => exact decode_commandWord 0x10 0
  | crcUpdate b => exact (decode_commandWord 0x11 _).trans (formatB_eq_ok_iff.2 ⟨b, rfl, rfl⟩)
  | crcRead => exact decode_commandWord 0x12 0
  | angClear => exact decode_commandWord 0x20 0
  | angPush v => exact decode_commandWord 0x21 v
  | encEncode => exact decode_commandWord 0x30 0
  | fbRead k => exact (decode_commandWord 0x31 _).trans (formatB_eq_ok_iff.2 ⟨k, rfl, rfl⟩)
  | stRead => exact decode_commandWord 0x40 0
  | ctlRead => exact decode_commandWord 0x41 0
  | ctlWrite e => exact (decode_commandWord 0x42 _).trans (formatC_eq_ok_iff.2 ⟨e, rfl, rfl⟩)

/-- Settles O7: `decode_encode`; every command is well formed. -/
theorem decodeOfEncodeIsTheCommand : Obligations.DecodeOfEncodeIsTheCommand :=
  fun i _ => decode_encode i

/-- The command an opcode and an argument spell is encoded as that opcode and that argument (30_encoding.md R49). -/
theorem encode_of_decodeFields {op : Byte} {arg : Word} {i : Instr} (ok : decodeFields op arg = .ok i) :
    encode i = commandWord op arg := by
  unfold decodeFields at ok
  split_ifs at ok with crcInit crcUpdate crcRead angClear angPush encEncode fbRead stRead ctlRead ctlWrite
  · obtain ⟨rfl, rfl⟩ := formatN_eq_ok_iff.1 ok
    rw [crcInit, encode]
  · obtain ⟨b, rfl, rfl⟩ := formatB_eq_ok_iff.1 ok
    rw [crcUpdate, encode]
  · obtain ⟨rfl, rfl⟩ := formatN_eq_ok_iff.1 ok
    rw [crcRead, encode]
  · obtain ⟨rfl, rfl⟩ := formatN_eq_ok_iff.1 ok
    rw [angClear, encode]
  · cases ok
    rw [angPush, encode]
  · obtain ⟨rfl, rfl⟩ := formatN_eq_ok_iff.1 ok
    rw [encEncode, encode]
  · obtain ⟨k, rfl, rfl⟩ := formatB_eq_ok_iff.1 ok
    rw [fbRead, encode]
  · obtain ⟨rfl, rfl⟩ := formatN_eq_ok_iff.1 ok
    rw [stRead, encode]
  · obtain ⟨rfl, rfl⟩ := formatN_eq_ok_iff.1 ok
    rw [ctlRead, encode]
  · obtain ⟨e, rfl, rfl⟩ := formatC_eq_ok_iff.1 ok
    rw [ctlWrite, encode]

/-- A word decodes to a command exactly when it is that command's word (30_encoding.md R49, R50). -/
theorem decode_eq_ok_iff {w : CmdWord} {i : Instr} : decode w = .ok i ↔ encode i = w := by
  constructor
  · intro ok
    exact (encode_of_decodeFields ok).trans (commandWord_fields w)
  · rintro rfl
    exact decode_encode i

/-- Settles O8: one direction of `decode_eq_ok_iff`. -/
theorem encodeOfDecodeIsTheWord : Obligations.EncodeOfDecodeIsTheWord :=
  fun _ _ => decode_eq_ok_iff.1

/-- Settles O9: five words are the encodings of their commands; the two others the decoder refuses, by the model's own
names (log 13). -/
theorem wordsOfTheSpecDecode : Obligations.WordsOfTheSpecDecode :=
  ⟨decode_encode .crcInit, decode_encode (.crcUpdate 0xFF), decode_encode (.angPush 1000), decode_encode (.fbRead 20),
    decode_encode (.ctlWrite true), rfl, rfl⟩

/-! ### The opcode map

A row whose mask takes the whole opcode and the must-be-zero bits holds exactly the words of its format. -/

/-- The word of every command lies in its row (30_encoding.md R49). -/
theorem matchesRow_encode (i : Instr) : matchesRow (encode i) (opcodeRow i) = true := by
  cases i with
  | crcInit => exact Laws.RowMatch.crcInit
  | crcUpdate b => exact Laws.RowMatch.crcUpdate b
  | crcRead => exact Laws.RowMatch.crcRead
  | angClear => exact Laws.RowMatch.angClear
  | angPush v => exact Laws.RowMatch.angPush v
  | encEncode => exact Laws.RowMatch.encEncode
  | fbRead k => exact Laws.RowMatch.fbRead k
  | stRead => exact Laws.RowMatch.stRead
  | ctlRead => exact Laws.RowMatch.ctlRead
  | ctlWrite e => exact Laws.RowMatch.ctlWrite e

theorem opField_and (v w : CmdWord) : opField (v &&& w) = opField v &&& opField w :=
  BitVec.extractLsb'_and

theorem argField_and (v w : CmdWord) : argField (v &&& w) = argField v &&& argField w :=
  BitVec.extractLsb'_and

/-- A word of a row has the row's opcode and zeros where the argument is masked. -/
theorem fields_of_matchesRow {w : CmdWord} {op : Byte} {mask : Word}
    (row : matchesRow w (commandWord op 0, commandWord 0xFF mask) = true) :
    w = commandWord op (argField w) ∧ argField w &&& mask = 0 := by
  have masked : w &&& commandWord 0xFF mask = commandWord op 0 := beq_iff_eq.1 row
  have opcode : opField w &&& 0xFF = op := by
    simpa only [opField_and, opField_commandWord] using congrArg opField masked
  have arg : argField w &&& mask = 0 := by
    simpa only [argField_and, argField_commandWord] using congrArg argField masked
  have whole : opField w = op := BitVec.and_allOnes.symm.trans opcode
  exact ⟨whole ▸ (commandWord_fields w).symm, arg⟩

/-- Format N: mask 0xFFFFFF. -/
theorem word_of_rowN {w : CmdWord} {op : Byte} (row : matchesRow w (commandWord op 0, commandWord 0xFF 0xFFFF) = true) :
    w = commandWord op 0 := by
  obtain ⟨word, zero⟩ := fields_of_matchesRow row
  have arg : argField w = 0 := BitVec.and_allOnes.symm.trans zero
  rwa [arg] at word

/-- Format B: mask 0xFFFF00. -/
theorem word_of_rowB {w : CmdWord} {op : Byte} (row : matchesRow w (commandWord op 0, commandWord 0xFF 0xFF00) = true) :
    ∃ b, w = commandWord op (byteArg b) := by
  obtain ⟨word, zero⟩ := fields_of_matchesRow row
  have high : (argField w).extractLsb' 8 8 &&& BitVec.allOnes 8 = 0 :=
    BitVec.extractLsb'_and.symm.trans (congrArg (BitVec.extractLsb' 8 8) zero)
  rw [BitVec.and_allOnes] at high
  exact ⟨_, (byteArg_extract high).symm ▸ word⟩

/-- Format C: mask 0xFFFFFE. -/
theorem word_of_rowC {w : CmdWord} {op : Byte} (row : matchesRow w (commandWord op 0, commandWord 0xFF 0xFFFE) = true) :
    ∃ e, w = commandWord op (bitArg e) := by
  obtain ⟨word, zero⟩ := fields_of_matchesRow row
  have high : (argField w).extractLsb' 1 15 &&& BitVec.allOnes 15 = 0 :=
    BitVec.extractLsb'_and.symm.trans (congrArg (BitVec.extractLsb' 1 15) zero)
  rw [BitVec.and_allOnes] at high
  exact ⟨_, (bitArg_extract high).symm ▸ word⟩

/-- A word of a command's row is the word of a command of that row. -/
theorem encode_of_matchesRow {w : CmdWord} {i : Instr} (row : matchesRow w (opcodeRow i) = true) :
    ∃ j, encode j = w ∧ opcodeRow j = opcodeRow i := by
  cases i with
  | crcInit => exact ⟨.crcInit, (word_of_rowN (op := 0x10) row).symm, rfl⟩
  | crcUpdate _ =>
    obtain ⟨b, word⟩ := word_of_rowB (op := 0x11) row
    exact ⟨.crcUpdate b, word.symm, rfl⟩
  | crcRead => exact ⟨.crcRead, (word_of_rowN (op := 0x12) row).symm, rfl⟩
  | angClear => exact ⟨.angClear, (word_of_rowN (op := 0x20) row).symm, rfl⟩
  | angPush _ =>
    obtain ⟨word, -⟩ := fields_of_matchesRow (op := 0x21) (mask := 0) row
    exact ⟨.angPush (argField w), word.symm, rfl⟩
  | encEncode => exact ⟨.encEncode, (word_of_rowN (op := 0x30) row).symm, rfl⟩
  | fbRead _ =>
    obtain ⟨k, word⟩ := word_of_rowB (op := 0x31) row
    exact ⟨.fbRead k, word.symm, rfl⟩
  | stRead => exact ⟨.stRead, (word_of_rowN (op := 0x40) row).symm, rfl⟩
  | ctlRead => exact ⟨.ctlRead, (word_of_rowN (op := 0x41) row).symm, rfl⟩
  | ctlWrite _ =>
    obtain ⟨e, word⟩ := word_of_rowC (op := 0x42) row
    exact ⟨.ctlWrite e, word.symm, rfl⟩

/-- The row of a command is one of the ten. -/
theorem opcodeRow_mem (i : Instr) : opcodeRow i ∈ opcodeRows := by
  cases i <;> simp [opcodeRows, opcodeRow]

/-- Each of the ten rows is the row of a command. -/
theorem exists_opcodeRow_of_mem {row : CmdWord × CmdWord} (mem : row ∈ opcodeRows) : ∃ i, row = opcodeRow i := by
  simp only [opcodeRows, List.mem_cons, List.not_mem_nil, or_false] at mem
  rcases mem with h | h | h | h | h | h | h | h | h | h <;> exact ⟨_, h⟩

/-- A word in a row of the map decodes to a command of that row. -/
theorem decode_of_matchesRow {w : CmdWord} {row : CmdWord × CmdWord} (mem : row ∈ opcodeRows)
    (lies : matchesRow w row = true) : ∃ j, decode w = .ok j ∧ opcodeRow j = row := by
  obtain ⟨i, rfl⟩ := exists_opcodeRow_of_mem mem
  obtain ⟨j, word, same⟩ := encode_of_matchesRow lies
  exact ⟨j, decode_eq_ok_iff.2 word, same⟩

/-- Two rows a word lies in are the row of the one command it decodes to. -/
theorem row_unique {w : CmdWord} {r₁ r₂ : CmdWord × CmdWord} (mem₁ : r₁ ∈ opcodeRows) (mem₂ : r₂ ∈ opcodeRows)
    (lies₁ : matchesRow w r₁ = true) (lies₂ : matchesRow w r₂ = true) : r₁ = r₂ := by
  obtain ⟨i, dec₁, rfl⟩ := decode_of_matchesRow mem₁ lies₁
  obtain ⟨j, dec₂, rfl⟩ := decode_of_matchesRow mem₂ lies₂
  cases dec₁.symm.trans dec₂
  rfl

/-- Settles O6: a word that decodes is its command's word, and a word of a row is the word of a command of that row. -/
theorem opcodeMapSelectsTheCommand : Obligations.OpcodeMapSelectsTheCommand := by
  refine ⟨fun w i dec => ?_, fun w i lies => decode_of_matchesRow (opcodeRow_mem i) lies,
    fun w r₁ mem₁ r₂ mem₂ => row_unique mem₁ mem₂, opcodeRow_mem⟩
  rw [← decode_eq_ok_iff.1 dec]
  exact matchesRow_encode i

end Sys2Proof
end

section
/-! Proofs of the statements on the response word, the CommandFrame's layout and the assembler (30_encoding.md R41, R51
to R53), and of the runs of `ENC.FRAME` and `FB.DUMP`. -/

namespace Sys2Proof.Machine

/-! ### The response word -/

/-- Settles O10: a response word is the status code put before the data. -/
theorem responseWordHoldsStatusAndData : Obligations.ResponseWordHoldsStatusAndData :=
  ⟨fun _ => ⟨BitVec.extractLsb'_append_eq_left, BitVec.extractLsb'_append_eq_right⟩, rfl, rfl, rfl, rfl, rfl⟩

/-! ### The layout of a CommandFrame -/

/-- A frame `encode` gives is the frame of six elements (42_frame_codec.md R80). -/
theorem encodeFrame_ok {a : List Word} {e : Bool} {f : List Byte} (ok : encodeFrame Config.params a e = .ok f) :
    a.length = 6 ∧ f = frameOf Config.params a := by
  rcases encodeFrame_cases a e with ⟨-, eq⟩ | ⟨-, -, k, -, eq⟩ | ⟨six, -, eq⟩
  · cases eq.symm.trans ok
  · cases eq.symm.trans ok
  · exact ⟨six, Except.ok.inj (ok.symm.trans eq)⟩

/-- The count is checked before the range (42_frame_codec.md R80). -/
theorem encodeFrame_of_length_ne {a : List Word} (e : Bool) (notSix : a.length ≠ 6) :
    encodeFrame Config.params a e = .error (.count (BitVec.ofNat 8 (min a.length 7))) :=
  if_pos notSix

/-- The payload holds the two bytes of element `k` at `2k` and `2k + 1`, high byte first (30_encoding.md R43). -/
theorem framePayload_getElem? (a : List Word) (k : Nat) :
    (framePayload a)[2 * k]? = a[k]?.map hi8 ∧ (framePayload a)[2 * k + 1]? = a[k]?.map lo8 := by
  induction a generalizing k with
  | nil => exact ⟨rfl, rfl⟩
  | cons v a ih =>
    cases k with
    | zero => exact ⟨rfl, rfl⟩
    | succ k => exact ih k

/-- The payload starts at index 7 of a frame of six elements and ends before index 19 (30_encoding.md R41). -/
theorem frameOf_getElem?_payload (p : Params) {a : List Word} (six : a.length = 6) {j : Nat} (inside : j < 12) :
    (frameOf p a)[7 + j]? = (framePayload a)[j]? := by
  rw [frameOf_eq_append, List.getElem?_append_left (by simp [six]; omega),
    List.getElem?_append_right (by simp), frameHeader_length, Nat.add_sub_cancel_left]

/-- The two bytes of element `k` of a frame of six (30_encoding.md R41). -/
theorem frameOf_angle (p : Params) {a : List Word} (six : a.length = 6) {k : Nat} (lt : k < 6) :
    (frameOf p a)[7 + 2 * k]? = some (hi8 (a.getD k 0)) ∧ (frameOf p a)[8 + 2 * k]? = some (lo8 (a.getD k 0)) := by
  have element : a[k]? = some (a.getD k 0) := by simp [six, lt]
  obtain ⟨high, low⟩ := framePayload_getElem? a k
  rw [element] at high low
  have next : 8 + 2 * k = 7 + (2 * k + 1) := by omega
  rw [next, frameOf_getElem?_payload p six (by omega), frameOf_getElem?_payload p six (by omega)]
  exact ⟨high, low⟩

/-- The trailer of a frame of six: the checksum of the 19 bytes before it, low byte first (30_encoding.md R44). -/
theorem frameOf_trailer (p : Params) {a : List Word} (six : a.length = 6) :
    (frameOf p a).drop 19 = le16 (crc16 p ((frameOf p a).take 19)) := by
  rw [frameOf_drop_nineteen p six, frameOf_take_nineteen p six]

/-- Settles O31: header, payload and trailer of `frameOf`, index by index. -/
theorem frameLayoutByIndex : Obligations.FrameLayoutByIndex := by
  intro a e f ok
  obtain ⟨six, rfl⟩ := encodeFrame_ok ok
  have trailer (j : Nat) : (frameOf Config.params a)[19 + j]? =
      (le16 (crc16 Config.params ((frameOf Config.params a).take 19)))[j]? := by
    rw [← List.getElem?_drop, frameOf_trailer _ six]
  exact ⟨by rw [frameOf_length, six], frameOf_take_seven _ a, fun k lt => frameOf_angle _ six lt, trailer 0, trailer 1⟩

/-! ### Issuing the words of commands -/

/-- Issuing a command's word first, when the command answers the state that issues the rest. -/
theorem runs_issuing_encode {i : Instr} {s t : State} {ws : List CmdWord} (k : Nat)
    (eq : exec i (issuing s ws) = .next (issuing t ws)) :
    runs (k + 1) (issuing s (encode i :: ws)) = runs k (issuing t ws) :=
  runs_succ ((step_issuing_encode ws (decode_encode i)).trans eq)

/-! ### `FB.DUMP` -/

/-- `FB.READ` of an index that exists, with a valid frame, answers the byte (42_frame_codec.md R83). -/
theorem execFbRead_of_valid {i : Byte} {s : State} (inside : i.toNat ≤ 20) (valid : s.fv = true) :
    execFbRead i s = .next (respond .ok (zext16 (frameByte s i.toNat)) s) := by
  rw [execFbRead_eq_respond, fbReadResponse, if_neg (by omega), if_pos valid]

/-- The responses to reads of the indices `is` while the frame is valid. -/
def readResponses (s : State) (is : List Byte) : List Response :=
  is.map fun i => ⟨.ok, zext16 (frameByte s i.toNat)⟩

/-- Reads of indices that exist, with a valid frame, answer its bytes in the order read and change nothing else. -/
theorem runs_reads {is : List Byte} (inside : ∀ i ∈ is, i.toNat ≤ 20) {s : State} (valid : s.fv = true) :
    runs is.length (issuing s (is.map fun i => encode (.fbRead i))) =
      .next { s with input := [], responses := s.responses ++ readResponses s is } := by
  induction is generalizing s with
  | nil => simp [readResponses, issuing, setInput]
  | cons i is ih =>
    rw [List.forall_mem_cons] at inside
    obtain ⟨first, others⟩ := inside
    have read (ws : List CmdWord) :
        exec (.fbRead i) (issuing s ws) = .next (issuing (respond .ok (zext16 (frameByte s i.toNat)) s) ws) :=
      execFbRead_of_valid (s := issuing s ws) first valid
    have later := ih others (s := respond .ok (zext16 (frameByte s i.toNat)) s) valid
    rw [List.map_cons, List.length_cons, runs_issuing_encode _ (read _), later]
    simp [readResponses]

/-- The answers to the indices 0 to 20 are the bytes of the frame in wire order (20_memory.md R24). -/
theorem readResponses_range (s : State) :
    readResponses s ((List.range 21).map (BitVec.ofNat 8)) = (frameBytes s).map fun b => ⟨.ok, b.setWidth 16⟩ := by
  simp only [readResponses, frameBytes, params_frameLen, List.map_map]
  refine List.map_congr_left fun i mem => ?_
  have fits : i % 2 ^ 8 = i := Nat.mod_eq_of_lt (by have := List.mem_range.1 mem; omega)
  simp only [Function.comp_apply, BitVec.toNat_ofNat, fits, zext16]

/-- Settles O39: `runs_reads` at the indices 0 to 20. -/
theorem frameDumpAnswersTheFrameInWireOrder : Obligations.FrameDumpAnswersTheFrameInWireOrder := by
  intro s valid
  have inside : ∀ i ∈ (List.range 21).map (BitVec.ofNat 8), i.toNat ≤ 20 := by decide
  have run := runs_reads inside valid
  rwa [readResponses_range, List.map_map, List.length_map, List.length_range] at run

/-! ### `ENC.FRAME` -/

/-- A push counts up to 7 (41_angle_staging.md R77). -/
theorem pushAngle_n_toNat (v : Word) (s : State) : (pushAngle v s).n.toNat = min (s.n.toNat + 1) 7 := by
  rcases pushAngle_cases v s with ⟨below, eq⟩ | ⟨six, eq⟩ | ⟨full, eq⟩
  · rw [eq, setCount_n, BitVec.toNat_add, Nat.mod_eq_of_lt (by simp; omega), min_eq_left (by simp; omega)]
    rfl
  · rw [eq, six]
    rfl
  · rw [eq, full]
    rfl

/-- A push below the sixth appends its element to the staged vector (41_angle_staging.md R75, R77). -/
theorem stagedVector_pushAngle (v : Word) {s : State} (below : s.n.toNat < 6) :
    stagedVector (pushAngle v s) = stagedVector s ++ [v] := by
  rcases pushAngle_cases v s with ⟨-, eq⟩ | ⟨six, -⟩ | ⟨full, -⟩
  · rw [eq, stagedVector_push v below]
  · omega
  · omega

/-- A push does not look at what the host has still to present. -/
theorem pushAngle_issuing (v : Word) (s : State) (ws : List CmdWord) :
    pushAngle v (issuing s ws) = issuing (pushAngle v s) ws := by
  rw [pushAngle, pushAngle, apply_ite (issuing · ws), apply_ite (issuing · ws)]
  rfl

/-- `t` follows on `s` by pushes of the elements of `a`: the count saturates at 7, and up to six in all the vector is
the old elements followed by the new ones (41_angle_staging.md R75, R77). -/
structure Pushed (s : State) (a : List Word) (t : State) : Prop where
  count : t.n.toNat = min (s.n.toNat + a.length) 7
  staged : s.n.toNat + a.length ≤ 6 → stagedVector t = stagedVector s ++ a
  crc : t.crc = s.crc
  rce : t.rce = s.rce

theorem Pushed.nil (s : State) : Pushed s [] s where
  count := (min_eq_left (Nat.le_of_lt_succ s.n.isLt)).symm
  staged _ := (List.append_nil _).symm
  crc := rfl
  rce := rfl

/-- A push and then pushes. -/
theorem Pushed.cons {v : Word} {a : List Word} {s t : State} (later : Pushed (respond .ok 0x0000 (pushAngle v s)) a t) :
    Pushed s (v :: a) t := by
  have first : (respond .ok 0x0000 (pushAngle v s)).n.toNat = min (s.n.toNat + 1) 7 := pushAngle_n_toNat v s
  refine ⟨?_, fun fits => ?_, later.crc.trans (pushAngle_crc v s), later.rce.trans (pushAngle_rce v s)⟩
  · rw [later.count, first, List.length_cons]
    omega
  · rw [List.length_cons] at fits
    have vector : stagedVector (respond .ok 0x0000 (pushAngle v s)) = stagedVector s ++ [v] :=
      stagedVector_pushAngle v (by omega)
    rw [later.staged (by omega), vector, List.append_assoc, List.singleton_append]

/-- A run of pushes, whatever is issued after them. -/
theorem runs_pushes (a : List Word) (k : Nat) (ws : List CmdWord) (s : State) :
    ∃ t, runs (k + a.length) (issuing s (a.map (fun v => encode (.angPush v)) ++ ws)) = runs k (issuing t ws) ∧
      Pushed s a t := by
  induction a generalizing s with
  | nil => exact ⟨s, rfl, .nil s⟩
  | cons v a ih =>
    obtain ⟨t, run, pushed⟩ := ih (respond .ok 0x0000 (pushAngle v s))
    have push (vs : List CmdWord) :
        exec (.angPush v) (issuing s vs) = .next (issuing (respond .ok 0x0000 (pushAngle v s)) vs) :=
      congrArg (fun u => Host.Outcome.next (respond .ok 0x0000 u)) (pushAngle_issuing v s vs)
    exact ⟨t, (runs_issuing_encode _ (push _)).trans run, pushed.cons⟩

/-- With the elements of `a` pushed after `ANG.CLEAR`, the verdict of `ENC.ENCODE` is `encode` of `a`
(42_frame_codec.md R80, R82). -/
theorem encodeVerdict_of_pushed {s t : State} {a : List Word} (pushed : Pushed s a t) (clear : s.n = 0) :
    encodeVerdict t.n t.ang t.rce = encodeFrame Config.params a s.rce := by
  have count := pushed.count
  rw [clear, show (0 : BitVec 3).toNat = 0 from rfl, Nat.zero_add] at count
  by_cases six : a.length = 6
  · have full : t.n = 6 := BitVec.eq_of_toNat_eq (by rw [count, six]; rfl)
    have none : stagedVector s = [] := by rw [stagedVector, clear]; rfl
    have vector := pushed.staged (by rw [clear, six]; decide)
    rw [stagedVector_of_six full, none, List.nil_append, angles] at vector
    rw [encodeVerdict, if_pos full, vector, pushed.rce]
  · have notSix : t.n ≠ 6 := fun full => by
      have counted : 6 = min a.length 7 := (congrArg BitVec.toNat full).symm.trans count
      omega
    have detail : t.n.setWidth 8 = BitVec.ofNat 8 (min a.length 7) := by
      rw [← count, BitVec.ofNat_toNat]
    rw [encodeVerdict, if_neg notSix, detail, encodeFrame_of_length_ne s.rce six]

/-- `ENC.ENCODE` does not write `crc` (42_frame_codec.md R82). -/
theorem applyVerdict_crc (v : Except EncodingError (List Byte)) (s : State) : (applyVerdict v s).crc = s.crc := by
  cases v <;> rfl

/-- Settles O38: `ANG.CLEAR`, the pushes, and `ENC.ENCODE`, whose verdict is `encode` of the vector pushed. -/
theorem encFrameComputesEncode : Obligations.EncFrameComputesEncode := by
  intro s a
  obtain ⟨t, pushes, pushed⟩ := runs_pushes a 1 [encode .encEncode] (respond .ok 0x0000 (setCount 0 s))
  have verdict : encodeVerdict t.n t.ang t.rce = encodeFrame Config.params a s.rce :=
    encodeVerdict_of_pushed (s := respond .ok 0x0000 (setCount 0 s)) pushed rfl
  have encodes : step (issuing t [encode .encEncode]) =
      .next (applyVerdict (encodeFrame Config.params a s.rce) (issuing t [])) := by
    rw [← verdict]
    exact (step_issuing_encode [] (decode_encode .encEncode)).trans (execEncEncode_eq_applyVerdict _)
  have run := (runs_issuing_encode (i := .angClear) (s := s) _ rfl).trans (pushes.trans (runs_succ encodes))
  rw [Nat.add_comm 1] at run
  refine ⟨_, run, (applyVerdict_crc _ _).trans pushed.crc, fun f ok => ?_, fun x error => ?_⟩
  · obtain ⟨six, frame⟩ := encodeFrame_ok ok
    rw [ok]
    exact ⟨by simp [applyVerdict], rfl, frameBytes_storeFrame (by rw [frame, frameOf_length, six]) _⟩
  · rw [error]
    exact ⟨by simp [applyVerdict, BlockException.status, BlockException.data], rfl⟩

/-! ### The assembler -/

/-- A line whose operands fit is assembled to the words of its commands (30_encoding.md R52). -/
theorem assemble_of_wf {l : SourceLine} (fits : l.wf = true) : assemble l = .ok ((lineCommands l).map encode) :=
  if_pos fits

/-- A line whose operands do not fit is refused (30_encoding.md R52). -/
theorem assemble_of_not_wf {l : SourceLine} (wide : l.wf ≠ true) : assemble l = .error .operandDoesNotFit :=
  if_neg wide

theorem byte_fits (b : Byte) : decide (b.toNat ≤ 255) = true :=
  decide_eq_true (Nat.le_of_lt_succ b.isLt)

theorem word_fits (v : Word) : decide (v.toNat ≤ 65535) = true :=
  decide_eq_true (Nat.le_of_lt_succ v.isLt)

/-- Settles O48: the operands are bytes or words, so they fit and are those of the commands of the expansion. -/
theorem pseudoInstructionsExpand : Obligations.PseudoInstructionsExpand := by
  refine ⟨fun bs => ?_, fun vs => ?_, ?_⟩
  · have fits : SourceLine.wf ⟨.crcCompute, bs.map BitVec.toNat⟩ = true := by
      simp [SourceLine.wf, byte_fits]
    rw [assemble_of_wf fits]
    simp [lineCommands]
  · have fits : SourceLine.wf ⟨.encFrame, vs.map BitVec.toNat⟩ = true := by
      simp [SourceLine.wf, word_fits]
    rw [assemble_of_wf fits]
    simp [lineCommands]
  · rw [assemble_of_wf rfl]
    simp [lineCommands]

/-- Settles O49: operands that fit, by width; larger ones by the bounds of 30_encoding.md R52. -/
theorem assemblerNeverTruncates : Obligations.AssemblerNeverTruncates := by
  refine ⟨fun b => ⟨?_, ?_⟩, fun v => ?_, fun e => ?_, fun x wide => ⟨?_, ?_⟩, fun x wide => ?_, fun x wide => ?_⟩
  · rw [assemble_of_wf (l := ⟨.crcUpdate, [b.toNat]⟩) (byte_fits b)]
    simp [lineCommands]
  · rw [assemble_of_wf (l := ⟨.fbRead, [b.toNat]⟩) (byte_fits b)]
    simp [lineCommands]
  · rw [assemble_of_wf (l := ⟨.angPush, [v.toNat]⟩) (word_fits v)]
    simp [lineCommands]
  · cases e <;> rfl
  · exact assemble_of_not_wf (by simpa [SourceLine.wf] using wide)
  · exact assemble_of_not_wf (by simpa [SourceLine.wf] using wide)
  · exact assemble_of_not_wf (by simpa [SourceLine.wf] using wide)
  · exact assemble_of_not_wf (by simpa [SourceLine.wf] using wide)

end Sys2Proof.Machine
end

section
/-! The words of a format whose must-be-zero bits are not all zero (30_encoding.md R48, R50), and the word of a command
with a byte operand. -/

namespace Sys2Proof

/-- A word of format N with an argument other than zero is illegal. -/
theorem decode_formatN_error {op : Byte} {i : Instr} (format : ∀ arg, decodeFields op arg = formatN op arg i)
    {arg : Word} (mbz : arg ≠ 0) : ∃ e, decode (commandWord op arg) = .error e :=
  ⟨_, (decode_commandWord op arg).trans ((format arg).trans (if_neg mbz))⟩

/-- A word of format B with a high argument byte other than zero is illegal. -/
theorem decode_formatB_error {op : Byte} {i : Byte → Instr} (format : ∀ arg, decodeFields op arg = formatB op arg i)
    {arg : Word} (mbz : arg.extractLsb' 8 8 ≠ (0 : Byte)) : ∃ e, decode (commandWord op arg) = .error e :=
  ⟨_, (decode_commandWord op arg).trans ((format arg).trans (if_neg mbz))⟩

/-- The argument of a command word is put into the low bits of the opcode's word (30_encoding.md R47). -/
theorem or_setWidth_eq_commandWord (op : Byte) (arg : Word) :
    commandWord op 0 ||| arg.setWidth 24 = commandWord op arg := by
  have low : arg.setWidth 24 = commandWord 0 arg := BitVec.setWidth_eq_append (by decide)
  calc commandWord op 0 ||| arg.setWidth 24
      = (op ||| 0) ++ (0 ||| arg) := by rw [low]; exact BitVec.or_append
    _ = commandWord op arg := congrArg₂ commandWord BitVec.or_zero BitVec.zero_or

/-- A byte operand in the low bits of the opcode's word. -/
theorem commandWord_byteArg (op b : Byte) : commandWord op 0 ||| b.setWidth 24 = commandWord op (byteArg b) := by
  rw [← or_setWidth_eq_commandWord op (byteArg b), byteArg, BitVec.setWidth_setWidth]
  simp

end Sys2Proof
end

section
/-! Proofs of the statements on the ChecksumEngine (40_checksum_engine.md): `crc_step` is linear over exclusive-or,
which gives the table form, the residue law and the injectivity laws; and the three commands, one at a time and in
a run. -/

namespace Sys2Proof.Machine

/-! ### The shifts -/

/-- A shift is linear: the polynomial comes in once if one of the bits shifted out is 1, and twice, or not at all, if
they are equal. -/
theorem crcShift_xor (p : Params) (x y : Word) : crcShift p (x ^^^ y) = crcShift p x ^^^ crcShift p y := by
  unfold crcShift
  rw [BitVec.getLsbD_xor, BitVec.ushiftRight_xor_distrib]
  cases x.getLsbD 0 <;> cases y.getLsbD 0
  · rfl
  · exact BitVec.xor_assoc _ _ _
  · show x >>> 1 ^^^ y >>> 1 ^^^ p.crcPoly = x >>> 1 ^^^ p.crcPoly ^^^ y >>> 1
    ac_rfl
  · show x >>> 1 ^^^ y >>> 1 = x >>> 1 ^^^ p.crcPoly ^^^ (y >>> 1 ^^^ p.crcPoly)
    rw [BitVec.xor_comm (y >>> 1), BitVec.xor_assoc, ← BitVec.xor_assoc p.crcPoly, BitVec.xor_self, BitVec.zero_xor]

theorem crcShifts_xor (p : Params) (k : Nat) (x y : Word) :
    crcShifts p k (x ^^^ y) = crcShifts p k x ^^^ crcShifts p k y := by
  induction k generalizing x y with
  | zero => rfl
  | succ k ih => rw [crcShifts, crcShift_xor, ih, ← crcShifts, ← crcShifts]

theorem crcShifts_eq_iterate (p : Params) (k : Nat) (t : Word) : crcShifts p k t = (crcShift p)^[k] t := by
  induction k generalizing t with
  | zero => rfl
  | succ k ih => exact ih _

/-- Where the `k` low bits are 0, nothing but zeros is shifted out of the register. -/
theorem crcShifts_of_low_zero (p : Params) {k : Nat} {t : Word} (low : ∀ i < k, t.getLsbD i = false) :
    crcShifts p k t = t >>> k := by
  induction k generalizing t with
  | zero => rw [crcShifts, BitVec.ushiftRight_zero]
  | succ k ih =>
    have first : crcShift p t = t >>> 1 := by rw [crcShift, low 0 (Nat.succ_pos k), if_neg Bool.false_ne_true]
    have others : ∀ i < k, (t >>> 1).getLsbD i = false := fun i lt => by
      rw [BitVec.getLsbD_ushiftRight]
      exact low (1 + i) (by omega)
    rw [crcShifts, first, ih others, Nat.add_comm, BitVec.shiftRight_add]

/-- A byte zero-extended has nothing in its high byte. -/
theorem zext16_ushiftRight_eight (b : Byte) : zext16 b >>> 8 = 0 := by
  apply BitVec.eq_of_toNat_eq
  have bound := b.isLt
  simp only [zext16, BitVec.toNat_ushiftRight, BitVec.toNat_setWidth, Nat.shiftRight_eq_div_pow]
  show b.toNat % 65536 / 256 = 0
  omega

/-- Eight shifts of a register whose low byte is cleared move its high byte down. -/
theorem crcShifts_eight_clear_lo8 (p : Params) (t : Word) : crcShifts p 8 (t ^^^ zext16 (lo8 t)) = t >>> 8 := by
  have low : ∀ i < 8, (t ^^^ zext16 (lo8 t)).getLsbD i = false := fun i lt => by
    simp [zext16, lo8, lt, show i < 16 by omega]
  rw [crcShifts_of_low_zero p low, BitVec.ushiftRight_xor_distrib, zext16_ushiftRight_eight]
  exact BitVec.xor_zero

/-- Eight shifts move the high byte down, and only the low byte meets the polynomial. -/
theorem crcShifts_eight (p : Params) (t : Word) : crcShifts p 8 t = t >>> 8 ^^^ crcShifts p 8 (zext16 (lo8 t)) := by
  rw [← crcShifts_eight_clear_lo8 p t, ← crcShifts_xor, BitVec.xor_assoc, BitVec.xor_self, BitVec.xor_zero]

/-- The top bit of the register after a shift is the bit shifted out: the polynomial's top bit is 1. -/
theorem crcShift_top (t : Word) : (crcShift Config.params t).getLsbD 15 = t.getLsbD 0 := by
  unfold crcShift
  cases t.getLsbD 0 <;> simp

/-- Only zero is shifted to zero: no 1 was shifted out, and the other bits are all there. -/
theorem eq_zero_of_crcShift_eq_zero {t : Word} (zero : crcShift Config.params t = 0) : t = 0 := by
  have out : t.getLsbD 0 = false := by
    rw [← crcShift_top, zero]
    rfl
  have rest : t >>> 1 = 0 := by rwa [crcShift, out, if_neg Bool.false_ne_true] at zero
  refine BitVec.eq_of_getLsbD_eq fun i _ => ?_
  cases i with
  | zero => exact out
  | succ i => simpa [Nat.add_comm] using congrArg (·.getLsbD i) rest

theorem crcShift_injective : Function.Injective (crcShift Config.params) := fun x y same =>
  BitVec.xor_eq_zero_iff.1 (eq_zero_of_crcShift_eq_zero (by rw [crcShift_xor, same, BitVec.xor_self]; rfl))

theorem crcShifts_injective (k : Nat) : Function.Injective (crcShifts Config.params k) := by
  rw [funext (crcShifts_eq_iterate Config.params k)]
  exact crcShift_injective.iterate k

/-! ### `crc_step` and `crc16` -/

/-- Settles O22: `crcShifts` iterates the shift of 40_checksum_engine.md R60. -/
theorem crcStepIsEightShifts : Obligations.CrcStepIsEightShifts :=
  ⟨fun c b => (crcStep_params c b).trans (crcShifts_eq_iterate _ 8 _), by decide +kernel⟩

/-- Settles O23: `crc16` is the fold, with no final exclusive-or. -/
theorem checksumStartsAtTheInitialValue : Obligations.ChecksumStartsAtTheInitialValue :=
  ⟨crc16_eq_crcOver, rfl, by decide +kernel⟩

theorem crc16_append (s t : List Byte) :
    crc16 Config.params (s ++ t) = crcOver Config.params (crc16 Config.params s) t := by
  rw [crc16_eq_crcOver, crc16_eq_crcOver, crcOver_append]

/-! ### The table form -/

/-- The listed table, entry by entry (40_checksum_engine.md section 4). -/
theorem crcTable_eq : crcTable = (List.range 256).map fun x => crcShifts Config.params 8 (BitVec.ofNat 16 x) := by
  decide +kernel

/-- The entry of a byte is its eight shifts (40_checksum_engine.md R62). -/
theorem crcTableAt_toNat (x : Byte) : crcTableAt x.toNat = crcShifts Config.params 8 (zext16 x) := by
  simp [crcTableAt, crcTable_eq, x.isLt, zext16]

/-- `v & 0x00FF` is the low byte. -/
theorem toNat_and_lo8 (v : Word) : (v &&& 0x00FF).toNat = (lo8 v).toNat := by
  rw [BitVec.toNat_and, lo8_toNat]
  exact Nat.and_two_pow_sub_one_eq_mod v.toNat 8

/-- Settles O24: the high byte moves down, and the entry of the low byte is its eight shifts. -/
theorem tableFormEqualsBitSerialForm : Obligations.TableFormEqualsBitSerialForm := by
  refine ⟨fun c b => ?_, fun x => ?_, by simp [crcTable_eq]⟩
  · have high : (c ^^^ zext16 b) >>> 8 = c >>> 8 := by
      rw [BitVec.ushiftRight_xor_distrib, zext16_ushiftRight_eight]
      exact BitVec.xor_zero
    rw [crcStep_params, crcShifts_eight, high, crcStepByTable, toNat_and_lo8, crcTableAt_toNat]
  · rw [crcTableAt_toNat, crcStep_params]
    exact congrArg _ BitVec.zero_xor.symm

/-! ### The laws of a checked message -/

/-- A byte equal to the low byte of the register cancels it. -/
theorem crcStep_lo8 (c : Word) : crcStep Config.params c (lo8 c) = c >>> 8 := by
  rw [crcStep_params, crcShifts_eight_clear_lo8]

/-- The high byte moved down is cancelled by a byte equal to it. -/
theorem crcStep_hi8 (c : Word) : crcStep Config.params (c >>> 8) (hi8 c) = 0 := by
  have same : zext16 (hi8 c) = c >>> 8 := by
    apply BitVec.eq_of_toNat_eq
    have bound := c.isLt
    rw [zext16, BitVec.toNat_setWidth, hi8_toNat, BitVec.toNat_ushiftRight, Nat.shiftRight_eq_div_pow]
    omega
  rw [crcStep_params, same, BitVec.xor_self]
  rfl

/-- Settles O25: the two bytes of the checksum cancel it one after the other. -/
theorem residueOfACheckedMessageIsZero : Obligations.ResidueOfACheckedMessageIsZero := by
  intro s
  rw [crc16_append, crcOver_cons, crcOver_cons, crcStep_lo8, crcStep_hi8, crcOver_nil]

theorem zext16_injective : Function.Injective zext16 := fun x y same => by
  have back (b : Byte) : (zext16 b).setWidth 8 = b := by simp [zext16]
  rw [← back x, same, back]

theorem crcStep_injective_register (b : Byte) : Function.Injective fun c => crcStep Config.params c b := by
  intro c c' same
  simp only [crcStep_params] at same
  exact (BitVec.xor_left_inj _).1 (crcShifts_injective 8 same)

theorem crcStep_injective_byte (c : Word) : Function.Injective fun b => crcStep Config.params c b := by
  intro b b' same
  simp only [crcStep_params] at same
  exact zext16_injective ((BitVec.xor_right_inj _).1 (crcShifts_injective 8 same))

theorem crcOver_injective_register (s : List Byte) : Function.Injective fun c => crcOver Config.params c s := by
  induction s with
  | nil => exact Function.injective_id
  | cons b s ih => exact ih.comp (crcStep_injective_register b)

/-- Settles O26: different bytes leave different registers, and equal bytes keep them different. -/
theorem aChangedByteChangesTheChecksum : Obligations.AChangedByteChangesTheChecksum := by
  refine ⟨fun b => (crcStep_injective_register b).bijective_of_finite, crcStep_injective_byte, ?_⟩
  intro s t b b' ne same
  rw [crc16_append, crc16_append] at same
  exact ne (crcStep_injective_byte _ (crcOver_injective_register t same))

/-! ### The three commands -/

/-- Settles O12: `decode_encode` for the word, format N for the argument. -/
theorem crcInitWritesTheInitialValue : Obligations.CrcInitWritesTheInitialValue :=
  ⟨decode_encode .crcInit, fun _ => decode_formatN_error (op := 0x10) (fun _ => rfl), fun _ => rfl⟩

/-- Settles O13: `decode_encode` for the word, format B for the argument. -/
theorem crcUpdateFeedsOneByte : Obligations.CrcUpdateFeedsOneByte :=
  ⟨fun b => (congrArg decode (commandWord_byteArg 0x11 b)).trans (decode_encode (.crcUpdate b)),
    fun _ => decode_formatB_error (op := 0x11) (fun _ => rfl), fun _ _ => rfl⟩

/-- Settles O14: `decode_encode` for the word, format N for the argument. -/
theorem crcReadAnswersTheRegister : Obligations.CrcReadAnswersTheRegister :=
  ⟨decode_encode .crcRead, fun _ => decode_formatN_error (op := 0x12) (fun _ => rfl), fun _ => rfl⟩

/-! ### The checksum over a run -/

/-- The register follows the byte a word feeds it, if the word is a `CRC.UPDATE`; no other word but `CRC.INIT` writes
it (10_state.md R10). -/
theorem written_crc_eq_crcOver {w : CmdWord} (noInit : decode w ≠ .ok .crcInit) (s : State) :
    (written (decode w) s).crc = crcOver Config.params s.crc (updateByte w).toList := by
  by_cases update : ∃ b, decode w = .ok (.crcUpdate b)
  · obtain ⟨b, dec⟩ := update
    rw [updateByte, dec]
    rfl
  · have none : updateByte w = none := by
      unfold updateByte
      split
      case h_1 b dec => exact absurd ⟨b, dec⟩ update
      case h_2 => rfl
    rw [none, written_crc s noInit (not_exists.1 update)]
    rfl

/-- A step on a word other than `CRC.INIT` takes the word and feeds the register its byte. -/
theorem step_command_crc {s : State} {w : CmdWord} {rest : List HostEvent} (h : s.input = .command w :: rest)
    (noInit : decode w ≠ .ok .crcInit) :
    ∃ t, step s = .next t ∧ t.input = rest ∧ t.crc = crcOver Config.params s.crc (updateByte w).toList := by
  obtain ⟨st, d, eq⟩ := step_command_eq_respond_written h
  exact ⟨_, eq, written_input _ _, written_crc_eq_crcOver noInit _⟩

/-- A run over words with no `CRC.INIT` among them feeds the register the bytes of their `CRC.UPDATE`s, whatever is
presented after them. -/
theorem runs_crc {ws : List CmdWord} (noInit : ∀ w ∈ ws, decode w ≠ .ok .crcInit) (k : Nat)
    {rest : List HostEvent} {s : State} (h : s.input = ws.map HostEvent.command ++ rest) :
    ∃ t, runs (k + ws.length) s = runs k t ∧ t.input = rest ∧
      t.crc = crcOver Config.params s.crc (ws.filterMap updateByte) := by
  induction ws generalizing s with
  | nil => exact ⟨s, rfl, h, rfl⟩
  | cons w ws ih =>
    rw [List.forall_mem_cons] at noInit
    obtain ⟨first, others⟩ := noInit
    obtain ⟨u, eq, taken, fed⟩ := step_command_crc h first
    obtain ⟨t, run, input, crc⟩ := ih others taken
    have bytes : (w :: ws).filterMap updateByte = (updateByte w).toList ++ ws.filterMap updateByte := by
      simp only [List.filterMap_eq_flatMap_toList, List.flatMap_cons]
    exact ⟨t, (runs_succ eq).trans run, input, by rw [crc, fed, bytes, crcOver_append]⟩

/-- The word of a `CRC.UPDATE` feeds its byte. -/
theorem updateByte_encode (b : Byte) : updateByte (encode (.crcUpdate b)) = some b := by
  rw [updateByte, decode_encode]

/-- Settles O27: `runs_crc` at the words of the updates. -/
theorem updatesContinueTheMessage : Obligations.UpdatesContinueTheMessage := by
  intro s u m holds
  have noInit : ∀ w ∈ m.map (fun b => encode (.crcUpdate b)), decode w ≠ .ok .crcInit := by
    simp [decode_encode]
  have bytes : (m.map fun b => encode (.crcUpdate b)).filterMap updateByte = m := by
    simp [List.filterMap_map, updateByte_encode]
  obtain ⟨t, run, -, crc⟩ := runs_crc noInit 0 (s := issuing s _) (rest := []) (List.append_nil _).symm
  rw [Nat.zero_add, List.length_map] at run
  rw [bytes] at crc
  exact ⟨t, run, by rw [crc, crc16_append, ← holds]; rfl⟩

/-- `CRC.READ` as the last word presented answers the register. -/
theorem runs_crcRead {s : State} (h : s.input = [.command (encode .crcRead)]) :
    runs 1 s = .next (respond .ok s.crc (setInput [] s)) :=
  runs_succ (step_of_decode_ok h (decode_encode .crcRead))

/-- Settles O28: `CRC.INIT` sets the register, `runs_crc` follows it over the words, and `CRC.READ` answers it. -/
theorem checksumIsOfTheBytesUpdated : Obligations.ChecksumIsOfTheBytesUpdated := by
  intro s ws noInit
  have init : runs (1 + ws.length + 1) (issuing s (encode .crcInit :: ws ++ [encode .crcRead])) =
      runs (1 + ws.length) (issuing (respond .ok 0x0000 (setCrc 0xFFFF s)) (ws ++ [encode .crcRead])) :=
    runs_issuing_encode (i := .crcInit) _ rfl
  obtain ⟨t, updates, input, crc⟩ := runs_crc noInit 1 (rest := [.command (encode .crcRead)])
    (s := issuing (respond .ok 0x0000 (setCrc 0xFFFF s)) (ws ++ [encode .crcRead])) List.map_append
  have run := init.trans (updates.trans (runs_crcRead input))
  rw [Nat.add_comm 1] at run
  have checksum : t.crc = crc16 Config.params (ws.filterMap updateByte) := crc.trans (crc16_eq_crcOver _).symm
  exact ⟨_, run, by rw [respond_responses, List.getLast?_concat, checksum]⟩

end Sys2Proof.Machine
end

section
/-! Proofs of the statements on the angle staging file (41_angle_staging.md): the two commands, one at a time, and a
run of pushes. -/

namespace Sys2Proof.Machine

/-! ### The two commands -/

/-- Settles O15: `decode_encode` for the word, format N for the argument. -/
theorem angClearZeroesTheCountOnly : Obligations.AngClearZeroesTheCountOnly :=
  ⟨decode_encode .angClear, fun _ => decode_formatN_error (op := 0x20) (fun _ => rfl), fun _ => rfl⟩

/-- The register written reads back, and the others are left alone. -/
theorem angleAt_setAngle (j : Nat) (v : Word) (s : State) {k : Nat} (lt : k < 6) :
    angleAt (setAngle j v s) k = if k = j then v else angleAt s k := by
  have list : angles (setAngle j v s) = (angles s).set j v := by simp [angles]
  have inside : k < (angles s).length := by rwa [angles_length]
  rw [angleAt, angleAt, list, List.getD_eq_getElem _ _ (by rwa [List.length_set]), List.getD_eq_getElem _ _ inside,
    List.getElem_set]
  simp only [eq_comm]

/-- A push writes `ang` and `n` alone (41_angle_staging.md R77). -/
theorem pushAngle_eq_with (v : Word) (s : State) :
    pushAngle v s = { s with ang := (pushAngle v s).ang, n := (pushAngle v s).n } := by
  rcases pushAngle_cases v s with ⟨-, eq⟩ | ⟨-, eq⟩ | ⟨-, eq⟩ <;> rw [eq] <;> rfl

/-- A push below the sixth stores its element at `ang[n]` (41_angle_staging.md R77). -/
theorem angleAt_pushAngle_of_lt (v : Word) {s : State} (below : s.n.toNat < 6) {k : Nat} (lt : k < 6) :
    angleAt (pushAngle v s) k = if k = s.n.toNat then v else angleAt s k := by
  rcases pushAngle_cases v s with ⟨-, eq⟩ | ⟨six, -⟩ | ⟨full, -⟩
  · rw [eq]
    exact angleAt_setAngle _ v s lt
  · omega
  · omega

/-- The seventh and every later push stores nothing (41_angle_staging.md R77). -/
theorem pushAngle_ang_of_le (v : Word) {s : State} (staged : 6 ≤ s.n.toNat) : (pushAngle v s).ang = s.ang := by
  rcases pushAngle_cases v s with ⟨below, -⟩ | ⟨-, eq⟩ | ⟨-, eq⟩
  · omega
  · rw [eq, setCount_ang]
  · rw [eq]

/-- Settles O16: the count is `pushAngle_n_toNat`, the registers are the two lemmas on `ang` above. -/
theorem angPushStoresAndCounts : Obligations.AngPushStoresAndCounts := by
  refine ⟨fun v => (congrArg decode (or_setWidth_eq_commandWord 0x21 v)).trans (decode_encode (.angPush v)),
    fun v s => ⟨respond .ok 0x0000 (pushAngle v s), rfl, fun below => ⟨?_, ?_⟩, fun staged => ⟨?_, ?_⟩, ?_, ?_⟩⟩
  · rw [respond_n, pushAngle_n_toNat]
    omega
  · exact fun k lt => angleAt_pushAngle_of_lt v below lt
  · apply BitVec.eq_of_toNat_eq
    rw [respond_n, pushAngle_n_toNat, min_eq_right (by omega)]
    rfl
  · intro k _
    rw [angleAt, angleAt, angles, angles, respond_ang, pushAngle_ang_of_le v staged]
  · exact frameByte_pushAngle s v
  · exact congrArg (respond .ok 0x0000) (pushAngle_eq_with v s)

/-! ### A run of pushes -/

/-- `ANG.PUSH` as the first word issued leaves the state that issues the rest. -/
theorem exec_angPush_issuing (v : Word) (s : State) (ws : List CmdWord) :
    exec (.angPush v) (issuing s ws) = .next (issuing (respond .ok 0x0000 (pushAngle v s)) ws) :=
  congrArg (fun u => Host.Outcome.next (respond .ok 0x0000 u)) (pushAngle_issuing v s ws)

/-- From six elements on, a run of pushes leaves the registers as they were (70_reset_and_hazards.md R124). -/
theorem ang_of_runs_pushes {a : List Word} {s t : State} (staged : 6 ≤ s.n.toNat)
    (run : runs a.length (issuing s (a.map fun v => encode (.angPush v))) = .next t) : t.ang = s.ang := by
  induction a generalizing s with
  | nil => cases run; rfl
  | cons v a ih =>
    rw [List.length_cons, List.map_cons, runs_issuing_encode _ (exec_angPush_issuing v s _)] at run
    have still : 6 ≤ (respond .ok 0x0000 (pushAngle v s)).n.toNat := by
      rw [respond_n, pushAngle_n_toNat]
      omega
    exact (ih still run).trans (pushAngle_ang_of_le v staged)

/-- Settles O37: `runs_pushes` for the count and the vector, `ang_of_runs_pushes` for the registers. -/
theorem pushesContinueTheVector : Obligations.PushesContinueTheVector := by
  intro s a
  obtain ⟨t, run, pushed⟩ := runs_pushes a 0 [] s
  rw [Nat.zero_add, List.append_nil, runs_zero] at run
  exact ⟨_, run, pushed.count, pushed.staged, fun staged => ang_of_runs_pushes staged run⟩

end Sys2Proof.Machine
end

section
/-! Proofs of the statements on the FrameCodec (42_frame_codec.md): what `encode` answers and what can be read back
from a frame it gives, and the two commands. -/

namespace Sys2Proof.Machine

/-! ### What `encode` answers -/

/-- The first element above the domain is reported by its index (42_frame_codec.md R80). -/
theorem encodeFrame_of_exceeding {a : List Word} {k : Nat} (six : a.length = 6) (lt : k < 6)
    (exceeds : 1000 < (a.getD k 0).toNat) (least : ∀ j, j < k → (a.getD j 0).toNat ≤ 1000) :
    encodeFrame Config.params a true = .error (.range (BitVec.ofNat 8 k)) := by
  have first := (firstOutOfDomain_eq_some_iff a k).2 ⟨by rwa [six], exceeds, least⟩
  simp [encodeFrame, six, first]

/-- Six elements that the option lets pass are encoded (42_frame_codec.md R80, R81). -/
theorem encodeFrame_of_accepted {a : List Word} {e : Bool} (six : a.length = 6)
    (accepted : e = false ∨ ∀ v ∈ a, v.toNat ≤ 1000) :
    encodeFrame Config.params a e = .ok (frameOf Config.params a) := by
  rcases encodeFrame_cases a e with ⟨notSix, -⟩ | ⟨-, on, k, first, -⟩ | ⟨-, -, eq⟩
  · exact absurd six notSix
  · rcases accepted with off | within
    · cases on.symm.trans off
    · cases first.symm.trans ((firstOutOfDomain_eq_none_iff a).2 within)
  · exact eq

/-- Settles O30: one lemma for each of the three answers. -/
theorem encodeFunctionAnswersAsSpecified : Obligations.EncodeFunctionAnswersAsSpecified := by
  refine fun a e => ⟨encodeFrame_of_length_ne e, fun k six on lt exceeds least => ?_,
    fun c six accepted checksum => ?_⟩
  · rw [on]
    exact encodeFrame_of_exceeding six lt exceeds least
  · rw [checksum]
    exact encodeFrame_of_accepted six accepted

/-- Settles O35: with the option off the six elements are encoded, and their frame is computed. -/
theorem goldenFrame : Obligations.GoldenFrame := by
  have frame : frameOf Config.params [1000, 0, 0, 0, 500, 800] =
      [0x01, 0x10, 0x05, 0xCE, 0x00, 0x06, 0x0C, 0x03, 0xE8, 0x00, 0x00, 0x00, 0x00, 0x00, 0x00, 0x01, 0xF4, 0x03,
        0x20, 0xF5, 0x33] := by decide +kernel
  exact (encodeFrame_of_accepted rfl (.inl rfl)).trans (congrArg Except.ok frame)

/-! ### Reading a frame back -/

/-- A 16-bit value is its two bytes, high byte first (20_memory.md R22). -/
theorem hi8_append_lo8 (q : Word) : hi8 q ++ lo8 q = q := by
  have joined : hi8 q ++ lo8 q = q.extractLsb' 0 16 := BitVec.extractLsb'_append_extractLsb'_eq_extractLsb' rfl
  rw [joined, BitVec.extractLsb'_eq_self]

/-- Element `k` is read back from its two payload bytes (42_frame_codec.md R84 (h)). -/
theorem frameOf_angle_readBack (p : Params) {a : List Word} (six : a.length = 6) {k : Nat} (lt : k < 6) :
    (frameOf p a).getD (7 + 2 * k) 0 ++ (frameOf p a).getD (8 + 2 * k) 0 = a.getD k 0 := by
  obtain ⟨high, low⟩ := frameOf_angle p six lt
  rw [List.getD_eq_getElem?_getD, List.getD_eq_getElem?_getD, high, low]
  exact hi8_append_lo8 _

/-- Settles O34: the answer is by whether an element exceeds the domain, and a frame reads back. -/
theorem noAngleValueIsChanged : Obligations.NoAngleValueIsChanged := by
  intro a e six
  rcases encodeFrame_cases a e with ⟨notSix, -⟩ | ⟨-, on, k, first, eq⟩ | ⟨-, accepted, eq⟩
  · exact absurd six notSix
  · obtain ⟨inside, exceeds, -⟩ := (firstOutOfDomain_eq_some_iff a k).1 first
    rw [List.getD_eq_getElem _ _ inside] at exceeds
    exact .inl ⟨_, eq, on, a[k], List.getElem_mem inside, exceeds⟩
  · rw [firstOutOfDomain_eq_none_iff] at accepted
    exact .inr ⟨_, eq, accepted, fun k lt => frameOf_angle_readBack _ six lt⟩

/-- Settles O33: each element is read back from the one frame. -/
theorem encodeIsInjective : Obligations.EncodeIsInjective := by
  intro a b d e f okA okB
  obtain ⟨sixA, rfl⟩ := encodeFrame_ok okA
  obtain ⟨sixB, same⟩ := encodeFrame_ok okB
  refine List.ext_getElem (sixA.trans sixB.symm) fun k insideA insideB => ?_
  have lt : k < 6 := sixA ▸ insideA
  rw [← List.getD_eq_getElem a 0 insideA, ← List.getD_eq_getElem b 0 insideB,
    ← frameOf_angle_readBack Config.params sixA lt, same, frameOf_angle_readBack Config.params sixB lt]

/-- Settles O32: the trailer is the checksum, low byte first, and a checked message leaves no residue. -/
theorem frameChecksumRoundTrip : Obligations.FrameChecksumRoundTrip := by
  intro a e f ok
  obtain ⟨-, -, -, low, high⟩ := frameLayoutByIndex a e f ok
  obtain ⟨six, frame⟩ := encodeFrame_ok ok
  have trailer : f.drop 19 = le16 (crc16 Config.params (f.take 19)) := frame ▸ frameOf_trailer Config.params six
  refine ⟨?_, ?_⟩
  · rw [List.getD_eq_getElem?_getD, List.getD_eq_getElem?_getD, high, low]
    exact (hi8_append_lo8 _).symm
  · have residue := residueOfACheckedMessageIsZero (f.take 19)
    rwa [← le16, ← trailer, List.take_append_drop] at residue

/-! ### `ENC.ENCODE` and `FB.READ` -/

/-- With six elements staged the verdict of `ENC.ENCODE` is `encode` of the staging registers (42_frame_codec.md
R82). -/
theorem encodeVerdict_of_six {s : State} (six : s.n = 6) :
    encodeVerdict s.n s.ang s.rce = encodeFrame Config.params (angles s) s.rce :=
  if_pos six

/-- `ENC.ENCODE` with its verdict known. -/
theorem execEncEncode_of_verdict {s : State} {v : Except EncodingError (List Byte)}
    (verdict : encodeVerdict s.n s.ang s.rce = v) : execEncEncode s = .next (applyVerdict v s) :=
  verdict ▸ execEncEncode_eq_applyVerdict s

/-- A bound on the six registers is a bound on the elements. -/
theorem angles_le_of_angleAt_le {s : State} {m : Nat} (within : ∀ k, k < 6 → (angleAt s k).toNat ≤ m) :
    ∀ v ∈ angles s, v.toNat ≤ m := by
  intro v mem
  obtain ⟨k, inside, rfl⟩ := List.getElem_of_mem mem
  rw [← List.getD_eq_getElem _ 0 inside]
  exact within k (by rwa [angles_length] at inside)

/-- Storing the same frame again changes no byte. -/
theorem frameByte_storeFrame_again (f : List Byte) {s t : State}
    (stored : ∀ a, frameByte t a = frameByte (storeFrame f s) a) (a : Nat) :
    frameByte (storeFrame f t) a = frameByte t a := by
  rw [frameByte_storeFrame, stored, frameByte_storeFrame]
  split <;> rfl

/-- The response that reports a verdict (42_frame_codec.md R82, 60_exceptions.md R101). -/
def verdictResponse : Except EncodingError (List Byte) → Response
  | .ok _ => ⟨.ok, 0x0000⟩
  | .error x => ⟨.encodingError, x.data⟩

/-- Applying the same verdict again gives the same response and keeps every byte. -/
theorem applyVerdict_again (v : Except EncodingError (List Byte)) {s t : State} (first : applyVerdict v s = t) :
    t.responses = s.responses ++ [verdictResponse v] ∧ (∀ a, frameByte (applyVerdict v t) a = frameByte t a) ∧
      applyVerdict v t = { t with fb := (applyVerdict v t).fb, responses := t.responses ++ [verdictResponse v] } := by
  subst first
  cases v with
  | ok f => exact ⟨rfl, frameByte_storeFrame_again f fun _ => rfl, rfl⟩
  | error x => exact ⟨rfl, fun _ => rfl, rfl⟩

/-- A verdict writes nothing `ENC.ENCODE` looks at, so a second `ENC.ENCODE` comes to the same verdict. -/
theorem encodeVerdict_applyVerdict (v : Except EncodingError (List Byte)) (s : State) :
    encodeVerdict (applyVerdict v s).n (applyVerdict v s).ang (applyVerdict v s).rce =
      encodeVerdict s.n s.ang s.rce := by
  cases v <;> rfl

/-- Settles O17: `ENC.ENCODE` applies its verdict, which is given by the count, then the range, then the frame. -/
theorem encEncodeStoresTheFrameOrRefuses : Obligations.EncEncodeStoresTheFrameOrRefuses := by
  refine ⟨decode_encode .encEncode, fun _ => decode_formatN_error (op := 0x30) fun _ => rfl,
    fun s notSix => ?_, fun s k six on lt exceeds least => ?_, fun s six accepted => ?_, fun s t run => ?_⟩
  · exact execEncEncode_of_verdict (if_neg notSix)
  · have error := encodeFrame_of_exceeding (angles_length s) lt exceeds least
    rw [← on, ← encodeVerdict_of_six six] at error
    exact execEncEncode_of_verdict error
  · have ok := encodeFrame_of_accepted (angles_length s) (accepted.imp_right angles_le_of_angleAt_le)
    have run := execEncEncode_of_verdict ((encodeVerdict_of_six six).trans ok)
    have bytes := frameByte_storeFrame (frameOf Config.params (angles s)) s
    have len : (frameOf Config.params (angles s)).length = 21 := by rw [frameOf_length, angles_length]
    refine ⟨_, _, ok, run, fun i lt => ?_, fun a le => ?_, rfl⟩
    · have inside : i < (frameOf Config.params (angles s)).length := by rwa [len]
      rw [List.getElem?_eq_getElem inside]
      exact congrArg some ((bytes i).trans (dif_pos inside)).symm
    · exact (bytes a).trans (dif_neg (by omega))
  · have first := Host.Outcome.next.inj ((execEncEncode_eq_applyVerdict s).symm.trans run)
    have same : encodeVerdict t.n t.ang t.rce = encodeVerdict s.n s.ang s.rce :=
      first ▸ encodeVerdict_applyVerdict _ s
    exact ⟨_, _, execEncEncode_of_verdict same, applyVerdict_again _ first⟩

/-- `FB.READ` with its response known. -/
theorem execFbRead_of_response {i : Byte} {s : State} {r : Response} (response : fbReadResponse i s = r) :
    execFbRead i s = .next (respond r.status r.data s) :=
  response ▸ execFbRead_eq_respond i s

/-- Settles O18: `decode_encode` for the word, format B for the argument, and the three cases of the response. -/
theorem fbReadAnswersTheByteOrRefuses : Obligations.FbReadAnswersTheByteOrRefuses := by
  refine ⟨fun i => (congrArg decode (commandWord_byteArg 0x31 i)).trans (decode_encode (.fbRead i)),
    fun _ => decode_formatB_error (op := 0x31) fun _ => rfl, fun i s => ⟨fun absent => ?_, fun inside invalid => ?_,
      fun inside valid => execFbRead_of_valid inside valid⟩⟩
  · exact execFbRead_of_response (if_pos absent)
  · have response : fbReadResponse i s = ⟨.noFrame, 0x0000⟩ := by
      rw [fbReadResponse, if_neg (by omega), if_neg (by simp [invalid])]
    exact execFbRead_of_response response

end Sys2Proof.Machine
end

section
/-! Proofs of the statements on the status and control commands (43_system.md): the words of format C that are illegal,
the values of the two read-only views `STATUS` and `CTRL`, and the three commands, one at a time. -/

namespace Sys2Proof

/-- A word of format C with an argument other than 0 or 1 is illegal. -/
theorem decode_formatC_error {op : Byte} {i : Bool → Instr} (format : ∀ arg, decodeFields op arg = formatC op arg i)
    {arg : Word} (mbz : arg.extractLsb' 1 15 ≠ (0 : BitVec 15)) : ∃ e, decode (commandWord op arg) = .error e :=
  ⟨_, (decode_commandWord op arg).trans ((format arg).trans (if_neg mbz))⟩

end Sys2Proof

namespace Sys2Proof.Machine

/-! ### The views `STATUS` and `CTRL` -/

/-- `STATUS` as a number: `fv` is its bit 0, and the bits from 1 up are `n` (43_system.md R90). -/
theorem statusWord_toNat (s : State) : (statusWord s).toNat = 2 * s.n.toNat + s.fv.toNat := by
  calc (statusWord s).toNat
      = ((0x000 : BitVec 12) ++ s.n).toNat <<< 1 ||| (BitVec.ofBool s.fv).toNat := BitVec.toNat_append _ _
    _ = s.n.toNat <<< 1 ||| s.fv.toNat := by rw [BitVec.toNat_append]; simp
    _ = s.n.toNat <<< 1 + s.fv.toNat := (Nat.shiftLeft_add_eq_or_of_lt s.fv.toNat_lt _).symm
    _ = 2 * s.n.toNat + s.fv.toNat := by rw [Nat.shiftLeft_eq, pow_one, mul_comm]

/-- `CTRL` is 1 or 0 as the option is set or not (43_system.md R91). -/
theorem ctrlWord_eq_ite (s : State) : ctrlWord s = if s.rce then 0x0001 else 0x0000 := by
  rw [ctrlWord]
  cases s.rce with
  | false => rfl
  | true => rfl

/-! ### The three commands -/

/-- Settles O19: `decode_encode` for the word, format N for the argument, `statusWord_toNat` for the data. -/
theorem stReadAnswersStatus : Obligations.StReadAnswersStatus :=
  ⟨decode_encode .stRead, fun _ => decode_formatN_error (op := 0x40) (fun _ => rfl),
    fun s => ⟨statusWord s, rfl, statusWord_toNat s⟩⟩

/-- Settles O20: `decode_encode` for the word, format N for the argument, `ctrlWord_eq_ite` for the data. -/
theorem ctlReadAnswersTheOption : Obligations.CtlReadAnswersTheOption :=
  ⟨decode_encode .ctlRead, fun _ => decode_formatN_error (op := 0x41) (fun _ => rfl),
    fun s => ctrlWord_eq_ite s ▸ rfl⟩

/-- Settles O21: `decode_encode` for the two words, format C for the argument. -/
theorem ctlWriteSetsTheOptionOnly : Obligations.CtlWriteSetsTheOptionOnly :=
  ⟨decode_encode (.ctlWrite false), decode_encode (.ctlWrite true),
    fun _ => decode_formatC_error (op := 0x42) (fun _ => rfl), fun _ _ => rfl⟩

end Sys2Proof.Machine
end

section
/-! Proofs of the statements on the exceptions (60_exceptions.md R100 to R108): a word outside the opcode map, what
raises each of the four exceptions, and that an exception writes its response and nothing more. -/

namespace Sys2Proof.Machine

/-! ### A word outside the opcode map -/

/-- The decoder refuses exactly the words that match no row (30_encoding.md R50). -/
theorem exists_decode_error_iff {w : CmdWord} :
    (∃ e, decode w = .error e) ↔ ∀ row ∈ opcodeRows, matchesRow w row = false := by
  constructor
  · rintro ⟨e, refused⟩ row mem
    by_contra lies
    obtain ⟨i, accepted, -⟩ := decode_of_matchesRow mem (Bool.eq_true_of_not_eq_false lies)
    cases refused.symm.trans accepted
  · intro outside
    cases dec : decode w with
    | error e => exact ⟨e, rfl⟩
    | ok i =>
      obtain ⟨lies, -⟩ := opcodeMapSelectsTheCommand
      cases (outside _ (opcodeRow_mem i)).symm.trans (lies w i dec)

/-- Settles O11: the decoder refuses the word, and the step answers as for every refused word. -/
theorem wordOutsideTheOpcodeMapIsIllegal : Obligations.WordOutsideTheOpcodeMapIsIllegal := by
  intro s w rest h outside
  obtain ⟨e, dec⟩ := exists_decode_error_iff.2 outside
  exact step_of_decode_error h dec

/-! ### What raises an exception -/

/-- The verdict of `ENC.ENCODE` by the count, then by the range of the registers (42_frame_codec.md R80, R82). -/
theorem encodeVerdict_cases (s : State) :
    (s.n ≠ 6 ∧ encodeVerdict s.n s.ang s.rce = .error (.count (s.n.setWidth 8))) ∨
      (s.n = 6 ∧ s.rce = true ∧ ∃ k, k < 6 ∧ 1000 < (angleAt s k).toNat ∧
        (∀ j, j < k → (angleAt s j).toNat ≤ 1000) ∧
        encodeVerdict s.n s.ang s.rce = .error (.range (BitVec.ofNat 8 k))) ∨
      (s.n = 6 ∧ (s.rce = false ∨ ∀ k, k < 6 → (angleAt s k).toNat ≤ 1000) ∧
        encodeVerdict s.n s.ang s.rce = .ok (frameOf Config.params (angles s))) := by
  by_cases six : s.n = 6
  · rw [encodeVerdict_of_six six]
    rcases encodeFrame_cases (angles s) s.rce with ⟨notSix, -⟩ | ⟨-, on, k, first, eq⟩ | ⟨-, accepted, eq⟩
    · exact absurd (angles_length s) notSix
    · obtain ⟨inside, exceeds, least⟩ := (firstOutOfDomain_eq_some_iff (angles s) k).1 first
      rw [angles_length] at inside
      exact .inr (.inl ⟨six, on, k, inside, exceeds, least, eq⟩)
    · refine .inr (.inr ⟨six, accepted.imp_right fun none k lt => ?_, eq⟩)
      have inside : k < (angles s).length := by rwa [angles_length]
      rw [angleAt, List.getD_eq_getElem _ _ inside]
      exact (firstOutOfDomain_eq_none_iff _).1 none _ (List.getElem_mem inside)
  · exact .inl ⟨six, if_neg six⟩

/-- The exception a command word raises in a state, with its information (60_exceptions.md R100 to R104, R107). -/
inductive Raises (s : State) (w : CmdWord) : BlockException → Prop
  | encodingError {x : EncodingError} (encode : decode w = .ok .encEncode)
      (verdict : encodeVerdict s.n s.ang s.rce = .error x) : Raises s w (.encodingError x)
  | illegalCommand (outside : ∀ row ∈ opcodeRows, matchesRow w row = false) :
      Raises s w (.illegalCommand (opField w))
  | indexRange {i : Byte} (read : decode w = .ok (.fbRead i)) (absent : 20 < i.toNat) : Raises s w (.indexRange i)
  | noFrame {i : Byte} (read : decode w = .ok (.fbRead i)) (inside : i.toNat ≤ 20) (invalid : s.fv = false) :
      Raises s w .noFrame

/-- The cause of each error status, without its information: the table of 60_exceptions.md R100. -/
def Cause (s : State) (w : CmdWord) : Status → Prop
  | .ok => False
  | .encodingError => decode w = .ok .encEncode ∧
      (s.n ≠ 6 ∨ (s.rce = true ∧ ∃ k, k < 6 ∧ 1000 < (angleAt s k).toNat))
  | .illegalCommand => ∀ row ∈ opcodeRows, matchesRow w row = false
  | .indexRange => ∃ i, decode w = .ok (.fbRead i) ∧ 20 < i.toNat
  | .noFrame => ∃ i, decode w = .ok (.fbRead i) ∧ i.toNat ≤ 20 ∧ s.fv = false

/-- A verdict that is an error has a cause. -/
theorem cause_of_encodeVerdict_error {s : State} {x : EncodingError}
    (error : encodeVerdict s.n s.ang s.rce = .error x) :
    s.n ≠ 6 ∨ (s.rce = true ∧ ∃ k, k < 6 ∧ 1000 < (angleAt s k).toNat) := by
  rcases encodeVerdict_cases s with ⟨notSix, -⟩ | ⟨-, on, k, lt, exceeds, -⟩ | ⟨-, -, ok⟩
  · exact .inl notSix
  · exact .inr ⟨on, k, lt, exceeds⟩
  · cases ok.symm.trans error

/-- With a cause the verdict is an error. -/
theorem exists_encodeVerdict_error {s : State}
    (cause : s.n ≠ 6 ∨ (s.rce = true ∧ ∃ k, k < 6 ∧ 1000 < (angleAt s k).toNat)) :
    ∃ x, encodeVerdict s.n s.ang s.rce = .error x := by
  rcases encodeVerdict_cases s with ⟨-, error⟩ | ⟨-, -, k, -, -, -, error⟩ | ⟨six, accepted, -⟩
  · exact ⟨_, error⟩
  · exact ⟨_, error⟩
  · rcases cause with notSix | ⟨on, k, lt, exceeds⟩
    · exact absurd six notSix
    rcases accepted with off | within
    · cases on.symm.trans off
    · exact absurd (within k lt) (by omega)

/-- The information of an `ENCODING_ERROR`: the count, or the least index out of range (60_exceptions.md R101). -/
theorem data_of_encodeVerdict_error {s : State} {x : EncodingError}
    (error : encodeVerdict s.n s.ang s.rce = .error x) :
    (s.n ≠ 6 ∧ x.data = (0x01 : Byte) ++ s.n.setWidth 8) ∨
      (s.n = 6 ∧ ∃ k, k < 6 ∧ 1000 < (angleAt s k).toNat ∧ (∀ j, j < k → (angleAt s j).toNat ≤ 1000) ∧
        x.data = (0x02 : Byte) ++ BitVec.ofNat 8 k) := by
  rcases encodeVerdict_cases s with ⟨notSix, eq⟩ | ⟨six, -, k, lt, exceeds, least, eq⟩ | ⟨-, -, eq⟩
  · cases eq.symm.trans error
    exact .inl ⟨notSix, rfl⟩
  · cases eq.symm.trans error
    exact .inr ⟨six, k, lt, exceeds, least, rfl⟩
  · cases eq.symm.trans error

/-- An exception raised has the cause of its status. -/
theorem Raises.cause {s : State} {w : CmdWord} {x : BlockException} (raised : Raises s w x) : Cause s w x.status := by
  cases raised with
  | encodingError encode verdict => exact ⟨encode, cause_of_encodeVerdict_error verdict⟩
  | illegalCommand outside => exact outside
  | indexRange read absent => exact ⟨_, read, absent⟩
  | noFrame read inside invalid => exact ⟨_, read, inside, invalid⟩

/-- The cause of a status raises an exception of that status. -/
theorem Cause.raises {s : State} {w : CmdWord} {st : Status} (cause : Cause s w st) :
    ∃ x, Raises s w x ∧ x.status = st := by
  cases st with
  | ok => exact cause.elim
  | encodingError =>
    obtain ⟨encode, cause⟩ := cause
    obtain ⟨x, verdict⟩ := exists_encodeVerdict_error cause
    exact ⟨_, .encodingError encode verdict, rfl⟩
  | illegalCommand => exact ⟨_, .illegalCommand cause, rfl⟩
  | indexRange =>
    obtain ⟨i, read, absent⟩ := cause
    exact ⟨_, .indexRange read absent, rfl⟩
  | noFrame =>
    obtain ⟨i, read, inside, invalid⟩ := cause
    exact ⟨_, .noFrame read inside invalid, rfl⟩

/-! ### The step that raises -/

section step
variable {s : State} {w : CmdWord} {rest : List HostEvent} (h : s.input = .command w :: rest)
include h

/-- A step that raises an exception reports it, and clears `fv` if the word is `ENC.ENCODE` (60_exceptions.md R108). -/
theorem Raises.step_eq {x : BlockException} (raised : Raises s w x) :
    step s = .next (raise x
      (setFrameValid (if decode w = .ok .encEncode then false else s.fv) (setInput rest s))) := by
  cases raised with
  | encodingError encode verdict =>
    rw [if_pos encode]
    exact (step_of_decode_ok h encode).trans (execEncEncode_of_verdict (s := setInput rest s) verdict)
  | illegalCommand outside =>
    obtain ⟨e, dec⟩ := exists_decode_error_iff.2 outside
    rw [if_neg (by simp [dec])]
    exact step_of_decode_error h dec
  | @indexRange i read absent =>
    obtain ⟨-, -, answers⟩ := fbReadAnswersTheByteOrRefuses
    obtain ⟨refused, -⟩ := answers i (setInput rest s)
    rw [if_neg (by simp [read])]
    exact (step_of_decode_ok h read).trans (refused absent)
  | @noFrame i read inside invalid =>
    obtain ⟨-, -, answers⟩ := fbReadAnswersTheByteOrRefuses
    obtain ⟨-, refused, -⟩ := answers i (setInput rest s)
    rw [if_neg (by simp [read])]
    exact (step_of_decode_ok h read).trans (refused inside invalid)

/-- A command word raises an exception or is answered OK. -/
theorem raises_or_step_ok :
    (∃ x, Raises s w x) ∨ ∃ d u, step s = .next (respond .ok d u) ∧ u.responses = s.responses := by
  rcases step_command h with ⟨i, dec, eq⟩ | ⟨e, dec, -⟩
  · cases i with
    | encEncode =>
      cases verdict : encodeVerdict s.n s.ang s.rce with
      | error x => exact .inl ⟨_, .encodingError dec verdict⟩
      | ok f => exact .inr ⟨_, _, eq.trans (execEncEncode_of_verdict (s := setInput rest s) verdict), rfl⟩
    | fbRead i =>
      rcases execFbRead_cases i (setInput rest s) with ⟨absent, -⟩ | ⟨inside, invalid, -⟩ | ⟨-, -, ok⟩
      · exact .inl ⟨_, .indexRange dec absent⟩
      · exact .inl ⟨_, .noFrame dec inside invalid⟩
      · exact .inr ⟨_, _, eq.trans ok, rfl⟩
    | angPush v => exact .inr ⟨_, _, eq, pushAngle_responses v (setInput rest s)⟩
    | _ => exact .inr ⟨_, _, eq, rfl⟩
  · exact .inl ⟨_, .illegalCommand (exists_decode_error_iff.1 ⟨e, dec⟩)⟩

end step

/-! ### The response of a step -/

/-- The one response more is the one given. -/
theorem response_of_respond {s u : State} {st : Status} {d : Word} {r : Response} (kept : u.responses = s.responses)
    (answered : (respond st d u).responses = s.responses ++ [r]) : r = ⟨st, d⟩ := by
  rw [respond_responses, kept, List.append_cancel_left_eq, List.singleton_inj] at answered
  exact answered.symm

section response
variable {s t : State} {w : CmdWord} {rest : List HostEvent} {r : Response} (h : s.input = .command w :: rest)
  (run : step s = .next t) (answered : t.responses = s.responses ++ [r])
include h run answered

/-- The response to a word that raises an exception is that exception's. -/
theorem Raises.response {x : BlockException} (raised : Raises s w x) : r = ⟨x.status, x.data⟩ := by
  cases (raised.step_eq h).symm.trans run
  exact response_of_respond rfl answered

/-- A word answered with an error has raised an exception. -/
theorem exists_raises (error : r.status ≠ .ok) : ∃ x, Raises s w x ∧ r = ⟨x.status, x.data⟩ := by
  rcases raises_or_step_ok h with ⟨x, raised⟩ | ⟨d, u, eq, kept⟩
  · exact ⟨x, raised, raised.response h run answered⟩
  · cases eq.symm.trans run
    exact absurd (congrArg Response.status (response_of_respond kept answered)) error

/-- A word is answered with an error status exactly when the cause of that status holds (60_exceptions.md R100). -/
theorem status_eq_iff_cause {st : Status} (error : st ≠ .ok) : r.status = st ↔ Cause s w st := by
  constructor
  · rintro rfl
    obtain ⟨x, raised, rfl⟩ := exists_raises h run answered error
    exact raised.cause
  · intro cause
    obtain ⟨x, raised, rfl⟩ := cause.raises
    rw [raised.response h run answered]

/-- The information of an `ENCODING_ERROR` is that of the verdict. -/
theorem exists_encodeVerdict_error_of_status (status : r.status = .encodingError) :
    ∃ x, encodeVerdict s.n s.ang s.rce = .error x ∧ r.data = x.data := by
  obtain ⟨encode, cause⟩ := (status_eq_iff_cause h run answered (by decide)).1 status
  obtain ⟨x, verdict⟩ := exists_encodeVerdict_error cause
  exact ⟨x, verdict, congrArg Response.data ((Raises.encodingError encode verdict).response h run answered)⟩

end response

/-- Settles O43: `status_eq_iff_cause` for the four causes; each cause raises its exception, which fixes the data. -/
theorem exceptionsAreRaisedExactlyByTheirCauses : Obligations.ExceptionsAreRaisedExactlyByTheirCauses := by
  intro s t w rest r h run answered
  have status_iff {st : Status} (error : st ≠ .ok) := status_eq_iff_cause h run answered error
  have data_eq {x : BlockException} (raised : Raises s w x) : r.data = x.data :=
    congrArg Response.data (raised.response h run answered)
  refine ⟨status_iff (by decide), status_iff (by decide), status_iff (by decide), status_iff (by decide),
    fun status => ?_, fun status => ?_, fun i read status => ?_, fun status => ?_⟩
  · obtain ⟨x, verdict, data⟩ := exists_encodeVerdict_error_of_status h run answered status
    rw [data]
    exact data_of_encodeVerdict_error verdict
  · exact data_eq (.illegalCommand ((status_iff (by decide)).1 status))
  · obtain ⟨k, readK, absent⟩ := (status_iff (by decide)).1 status
    cases read.symm.trans readK
    exact data_eq (.indexRange read absent)
  · obtain ⟨i, read, inside, invalid⟩ := (status_iff (by decide)).1 status
    exact data_eq (.noFrame read inside invalid)

/-- Settles O44: an error is an exception raised, and `Raises.step_eq` is the whole next state. -/
theorem exceptionsArePrecise : Obligations.ExceptionsArePrecise := by
  intro s t w rest r h run answered error
  obtain ⟨x, raised, rfl⟩ := exists_raises h run answered error
  cases (raised.step_eq h).symm.trans run
  rfl

end Sys2Proof.Machine
end

section
/-! Proof of the statement on reset (70_reset_and_hazards.md R120, 93_implementation_defined.md U6): no register of the
state before is visible after it. -/

namespace Sys2Proof.Machine

/-- Reset writes `crc`, `n`, `fv` and `rce`, and with `n = 0` and `fv = 0` neither `ang` nor `fb` is observed (10_state.md
R18, R19): only the host's own lists have to agree before it. -/
theorem sameToHost_applyReset {s t : State} (input : s.input = t.input) (responses : s.responses = t.responses) :
    SameToHost (applyReset s) (applyReset t) where
  crc := rfl
  n := rfl
  fv := rfl
  rce := rfl
  input := input
  responses := responses
  staged _ := rfl
  frame valid := nomatch valid

/-- Settles O2: both steps are a reset (`step_reset`) with the same events left. -/
theorem resetForgetsTheStateBefore : Obligations.ResetForgetsTheStateBefore :=
  fun _ _ _ hs ht responses => ⟨_, _, step_reset hs, step_reset ht, sameToHost_applyReset rfl responses⟩

end Sys2Proof.Machine
end
